-- ==== Sys2Proof/Word.lean ====
section
/-!
DEFINITION. The bit-vector types of FCODEC (00_scope R10): a frame byte, a 32-bit host word, a 12-bit window offset.
-/

namespace Sys2Proof

/-- A frame byte, a buffer byte, a checksum: "Every frame field is 8 bits" (R10). -/
abbrev Byte := BitVec 8

/-- The 32-bit host data word, and every control register as the host reads it (R10, R22). -/
abbrev Word := BitVec 32

/-- The 12-bit byte offset inside FCODEC's 4 KiB window (R10, R50). -/
abbrev Offset := BitVec 12

end Sys2Proof
end

