-- ==== Sys2Proof/Config.lean ====
section
/-!
DEFINITION. What the spec leaves to the platform (00_scope R9, 92_eei_decisions "Open parameters") and the one free value
(10_state R42). A constant here has NO body: no proof can see what it is.
-/

namespace Sys2Proof.Config

/-- FREE VALUE (10_state R42, 93 U1; log 3). The byte that a buffer location nothing has written since reset reads as: "an
arbitrary byte: a draw with no law". The first argument numbers the reset the draw belongs to (State.drawEpoch), the
second is the window offset; a draw is one value until the next reset, since reads have no side effects (20_memory R59).
Safe: a claim that holds of the model holds for every draw. -/
opaque unwrittenByte : Nat → Nat → Byte

/-- OPEN parameter HANDSHAKE_REG (R9, D28): the register byte of the connect, baud and disconnect frames. The three handshake
instructions take it as an operand; the session frames of Safety.lean use this constant. -/
opaque handshakeReg : Byte

/-- The default of HANDSHAKE_REG (R9, D28). -/
def handshakeRegDefault : Byte := 0x00#8

/-- OPEN parameter FCODEC_BASE (R9, R50): FCODEC sees only the offset, so nothing in the model reads it. -/
opaque fcodecBase : Nat

/-- OPEN parameter SETTLE_DELAY (R9, R236): the host's wait; no rule of FCODEC depends on it. -/
opaque settleDelay : Nat

/-- OPEN parameter CMD_CYCLES (R242): "No rule depends on CMD_CYCLES". -/
opaque cmdCycles : Nat

/-- BAUD_INDEX_115200 (R9): the one baud index the source gives a meaning. -/
def baudIndex115200 : Byte := 0x04#8

/-- MAX_PLEN (R9). -/
def maxPlen : Nat := 255

/-- FRAME_OVERHEAD (R9): four header bytes and the checksum. -/
def frameOverhead : Nat := 5

/-- MAX_FRAME, TX_CAP and RX_CAP (R9, D8). -/
def maxFrame : Nat := 260

/-- MIN_RESPONSE_LEN (R9): "longer than 6 bytes". -/
def minResponseLen : Nat := 7

/-- DISP_CAP (R9, D8). -/
def dispCap : Nat := 256

end Sys2Proof.Config
end

