-- ==== Sys2Proof/Syntax.lean ====
section
/-!
DEFINITION. The instructions of FCODEC: one constructor per row of spec/opcode_table.json (30_encoding R89, R91), and the
two places an instruction stands in (the command word written to CTRL, a frame).
-/

namespace Sys2Proof

/-- One constructor per row of the opcode table. Format CMD32 (R83): the constructors carry the fields that the row leaves
free and CTRL keeps (R25, R177): SEL, and for the reserved row OP. Format FRAME (R91): the constructors carry the row's
variable header bytes and the frame's bytes after the header (30_encoding R70; log 6, 7). -/
inductive Instr where
  /-- `NOP`, OP = 0 (R175). -/
  | nop (sel : BitVec 2)
  /-- `ENCODE`, OP = 1 (R100). -/
  | encode (sel : BitVec 2)
  /-- `DECODE.V`, OP = 2, SEL = 0 (R130). -/
  | decodeV
  /-- `DECODE.I`, OP = 2, SEL = 1 (R130). -/
  | decodeI
  /-- `DECODE.P`, OP = 2, SEL = 2 (R130). -/
  | decodeP
  /-- `DECODE.ILLEGAL_SEL`, OP = 2, SEL = 3 (R151). -/
  | decodeIllegalSel
  /-- `VERIFY`, OP = 3 (R170). -/
  | verify (sel : BitVec 2)
  /-- `RESERVED.OP`, OP = 4–7 (R176). -/
  | reservedOp (op : BitVec 3) (sel : BitVec 2)
  /-- `ENC.FRAME` (R110): any direction, command and register, a payload of at most 255 bytes. -/
  | encFrame (dir cmd reg : Byte) (payload : List Byte)
  /-- `Q.GET`, F1 A1 rr 00: built by ENC.QUERY r (R111). -/
  | qGet (reg : Byte)
  /-- `S.FLOAT`, F1 B1 rr 04: built by ENC.SETF r, bits (R112). -/
  | sFloat (reg : Byte) (bits : Word)
  /-- `S.BYTE`, F1 B1 rr 01: built by ENC.SETB r, b (R113). -/
  | sByte (reg value : Byte)
  /-- `H.CONNECT`, F1 C1 hh 01: built by ENC.CONNECT (R114), whose payload byte is 0x01 (log 9). -/
  | hConnect (hh payload : Byte)
  /-- `H.BAUD`, F1 B0 hh 01: built by ENC.BAUD idx (R115). -/
  | hBaud (hh index : Byte)
  /-- `H.DISCONNECT`, F1 C1 hh 00: built by ENC.DISCONNECT (R116). -/
  | hDisconnect (hh : Byte)
  /-- `RESP.SETV`, F0 A1 C1 ll (R141): `len` is ll, `body` the received bytes after the header. -/
  | respSetv (len : Byte) (body : List Byte)
  /-- `RESP.SETI`, F0 A1 C2 ll (R141). -/
  | respSeti (len : Byte) (body : List Byte)
  /-- `RESP.TELEM`, F0 A1 C3 ll (R142). -/
  | respTelem (len : Byte) (body : List Byte)
  /-- `RESP.MODEL`, F0 A1 DE ll (R143). -/
  | respModel (len : Byte) (body : List Byte)
  /-- `RESP.HWVER`, F0 A1 DF ll (R143). -/
  | respHwver (len : Byte) (body : List Byte)
  /-- `RESP.FWVER`, F0 A1 E0 ll (R143). -/
  | respFwver (len : Byte) (body : List Byte)
  /-- `RESP.OTHER`, F0 A1 rr ll with rr not in the register table (R145). -/
  | respOther (reg len : Byte) (body : List Byte)
  deriving DecidableEq, Repr

/-- Where an instruction's bytes stand: the word written to CTRL (R83), or a frame (R89). -/
inductive Source where
  | ctrl
  | frame
  deriving DecidableEq, Repr

/-- The format of an instruction's row: CMD or FRAME (R89). -/
def Instr.source : Instr → Source
  | .nop _ | .encode _ | .decodeV | .decodeI | .decodeP | .decodeIllegalSel | .verify _ | .reservedOp _ _ => .ctrl
  | .encFrame _ _ _ _ | .qGet _ | .sFloat _ _ | .sByte _ _ | .hConnect _ _ | .hBaud _ _ | .hDisconnect _ => .frame
  | .respSetv _ _ | .respSeti _ _ | .respTelem _ _ | .respModel _ _ | .respHwver _ _ | .respFwver _ _ => .frame
  | .respOther _ _ _ => .frame

/-- The rows of format FRAME, by name (R91). -/
inductive FrameKind where
  | encFrame | qGet | sFloat | sByte | hConnect | hBaud | hDisconnect
  | respSetv | respSeti | respTelem | respModel | respHwver | respFwver | respOther
  deriving DecidableEq, Repr

/-- Why bytes are no instruction. -/
inductive DecodeError where
  /-- Fewer than the 4 bytes of a command word. -/
  | shortCommand
  /-- Fewer than the 4 header bytes that a FRAME row matches. -/
  | shortHeader
  /-- The frame ends before the payload bytes that its length byte declares, so the helper that builds it lacks operands. -/
  | shortPayload
  deriving DecidableEq, Repr

/-- What the decoder answers: an instruction and the bytes after it, or a refusal by name. -/
inductive Decoded where
  | instr (i : Instr) (rest : List Byte)
  | refused (why : DecodeError)
  deriving DecidableEq, Repr

end Sys2Proof
end

