-- ==== Sys2Proof/WellFormed.lean ====
section
/-!
DEFINITION. The checks on instructions: which operands a row of the opcode table admits (30_encoding R84, R89, R91).
-/

namespace Sys2Proof

/-- The header (byte 0, byte 1, byte 3) is in a FRAME row more specific than ENC.FRAME (R91), which takes precedence over it
(R89). -/
def inSpecificRow (f0 f1 f3 : Byte) : Bool :=
  (f0 == 0xF0#8 && f1 == 0xA1#8) ||
  (f0 == 0xF1#8 &&
    ((f1 == 0xA1#8 && f3 == 0x00#8) || (f1 == 0xB1#8 && (f3 == 0x04#8 || f3 == 0x01#8)) ||
     (f1 == 0xC1#8 && (f3 == 0x01#8 || f3 == 0x00#8)) || (f1 == 0xB0#8 && f3 == 0x01#8)))

/-- The register ids of REGISTER_TABLE (41_decode R140). -/
def inRegisterTable (reg : Byte) : Bool :=
  reg == 0xC1#8 || reg == 0xC2#8 || reg == 0xC3#8 || reg == 0xDE#8 || reg == 0xDF#8 || reg == 0xE0#8

/-- A received frame fits RX_BUF: header and body are at most RX_CAP = 260 bytes (R9, R58). -/
def bodyFits (body : List Byte) : Bool := body.length + 4 ≤ Config.maxFrame

/-- The operands that the instruction's row admits:
RESERVED.OP has OP = 4–7 (R84); ENC.FRAME has a payload of at most 255 bytes (R103) and a header that no more specific row
claims (R89); H.CONNECT has the payload byte 01 (R91, R114); a RESP row's frame fits the buffer; RESP.OTHER's register is
not in the register table (R91). -/
def Instr.wellFormed : Instr → Bool
  | .nop _ | .encode _ | .decodeV | .decodeI | .decodeP | .decodeIllegalSel | .verify _ => true
  | .reservedOp op _ => 4 ≤ op.toNat
  | .encFrame dir cmd _ payload =>
      payload.length ≤ Config.maxPlen && !inSpecificRow dir cmd (BitVec.ofNat 8 payload.length)
  | .qGet _ | .sFloat _ _ | .sByte _ _ | .hBaud _ _ | .hDisconnect _ => true
  | .hConnect _ payload => payload == 0x01#8
  | .respSetv _ body | .respSeti _ body | .respTelem _ body | .respModel _ body | .respHwver _ body => bodyFits body
  | .respFwver _ body => bodyFits body
  | .respOther reg _ body => !inRegisterTable reg && bodyFits body

end Sys2Proof
end

