-- ==== Sys2Proof/Decode.lean ====
section
/-!
DEFINITION. The decoder and the encoder of FCODEC's instructions (30_encoding R70, R83–R91), and the byte-order and
checksum helpers they share with the machine. Total on any bytes; what is no instruction is refused by name.
-/

namespace Sys2Proof

/-! ### Byte order (20_memory R55, R62; 00_scope R12) -/

/-- `le32(b0,b1,b2,b3)` (00_scope R12): b0 is bits [7:0]. -/
def le32 (b0 b1 b2 b3 : Byte) : Word :=
  b0.setWidth 32 ||| b1.setWidth 32 <<< 8 ||| b2.setWidth 32 <<< 16 ||| b3.setWidth 32 <<< 24

/-- Byte k of a word, `v[8k+7:8k]` (20_memory R55). -/
def wordByte (w : Word) (k : Nat) : Byte := w.extractLsb' (8 * k) 8

/-- The four bytes of a word in the host's byte order, lowest address first (R55). -/
def wordBytes (w : Word) : List Byte := [wordByte w 0, wordByte w 1, wordByte w 2, wordByte w 3]

/-- `HDR32 = F[0]<<24 | F[1]<<16 | F[2]<<8 | F[3]` (30_encoding R89): byte 0 the most significant. -/
def hdr32 (f0 f1 f2 f3 : Byte) : Word := le32 f3 f2 f1 f0

/-! ### The frame checksum as the wire format defines it -/

/-- `(register + len + sum(payload)) mod 256` (30_encoding R70, 00_scope R13), in 8-bit wraparound arithmetic. -/
def frameChecksum (reg len : Byte) (payload : List Byte) : Byte := payload.foldl (· + ·) (reg + len)

/-- A frame's bytes in transmission order (R70): header, payload, checksum. -/
def frameBytes (dir cmd reg : Byte) (payload : List Byte) : List Byte :=
  let len : Byte := BitVec.ofNat 8 payload.length
  [dir, cmd, reg, len] ++ payload ++ [frameChecksum reg len payload]

/-! ### Decoding -/

/-- The command word (R83, R84, R85, R86): OP = w[2:0], SEL = w[5:4]; every other bit is ignored, no word is refused. -/
def decodeCommandWord (w : Word) : Instr :=
  let op : BitVec 3 := w.extractLsb' 0 3
  let sel : BitVec 2 := w.extractLsb' 4 2
  if op = 0#3 then .nop sel
  else if op = 1#3 then .encode sel
  else if op = 2#3 then
    if sel = 0#2 then .decodeV
    else if sel = 1#2 then .decodeI
    else if sel = 2#2 then .decodeP
    else .decodeIllegalSel
  else if op = 3#3 then .verify sel
  else .reservedOp op sel

/-- A row of format FRAME as the opcode table gives it (R89): a header h is in the row when `h &&& mask = pattern`. -/
structure FrameRow where
  kind : FrameKind
  pattern : Word
  mask : Word
  deriving DecidableEq, Repr

/-- The FRAME rows of spec/opcode_table.json, a more specific mask before a less specific one ("FRAME rows with a more
specific mask take precedence", R89). -/
def frameRows : List FrameRow :=
  [ ⟨.respSetv, 0xF0A1C100#32, 0xFFFFFF00#32⟩, ⟨.respSeti, 0xF0A1C200#32, 0xFFFFFF00#32⟩,
    ⟨.respTelem, 0xF0A1C300#32, 0xFFFFFF00#32⟩, ⟨.respModel, 0xF0A1DE00#32, 0xFFFFFF00#32⟩,
    ⟨.respHwver, 0xF0A1DF00#32, 0xFFFFFF00#32⟩, ⟨.respFwver, 0xF0A1E000#32, 0xFFFFFF00#32⟩,
    ⟨.qGet, 0xF1A10000#32, 0xFFFF00FF#32⟩, ⟨.sFloat, 0xF1B10004#32, 0xFFFF00FF#32⟩,
    ⟨.sByte, 0xF1B10001#32, 0xFFFF00FF#32⟩, ⟨.hConnect, 0xF1C10001#32, 0xFFFF00FF#32⟩,
    ⟨.hBaud, 0xF1B00001#32, 0xFFFF00FF#32⟩, ⟨.hDisconnect, 0xF1C10000#32, 0xFFFF00FF#32⟩,
    ⟨.respOther, 0xF0A10000#32, 0xFFFF0000#32⟩, ⟨.encFrame, 0x00000000#32, 0x00000000#32⟩ ]

/-- The first row of the table that a header is in (R89). -/
def classifyByTable (h : Word) : FrameKind :=
  match frameRows.find? fun r => h &&& r.mask == r.pattern with
  | some r => r.kind
  | none => .encFrame

/-- The FRAME row that a header is in, read byte by byte (R91), a more specific row before a less specific one (R89). -/
def frameKind (f0 f1 f2 f3 : Byte) : FrameKind :=
  if f0 = 0xF0#8 ∧ f1 = 0xA1#8 then
    if f2 = 0xC1#8 then .respSetv
    else if f2 = 0xC2#8 then .respSeti
    else if f2 = 0xC3#8 then .respTelem
    else if f2 = 0xDE#8 then .respModel
    else if f2 = 0xDF#8 then .respHwver
    else if f2 = 0xE0#8 then .respFwver
    else .respOther
  else if f0 = 0xF1#8 then
    if f1 = 0xA1#8 ∧ f3 = 0x00#8 then .qGet
    else if f1 = 0xB1#8 ∧ f3 = 0x04#8 then .sFloat
    else if f1 = 0xB1#8 ∧ f3 = 0x01#8 then .sByte
    else if f1 = 0xC1#8 ∧ f3 = 0x01#8 then .hConnect
    else if f1 = 0xB0#8 ∧ f3 = 0x01#8 then .hBaud
    else if f1 = 0xC1#8 ∧ f3 = 0x00#8 then .hDisconnect
    else .encFrame
  else .encFrame

/-- Take `n` payload bytes, then let `k` build the instruction; the frame's checksum byte, if it is there, is stepped over
(ENCODE computes it, R100; log 8). -/
def withPayload (n : Nat) (body : List Byte) (k : List Byte → Instr) : Decoded :=
  if body.length < n then .refused .shortPayload
  else .instr (k (body.take n)) (body.drop (n + 1))

/-- A frame with header f0 f1 f2 f3 and the bytes after it (R91). A RESP row takes all the bytes that were received (R149:
the bytes after the frame are in the buffer and ignored). -/
def decodeFrameBody (f0 f1 f2 f3 : Byte) (body : List Byte) : Decoded :=
  match frameKind f0 f1 f2 f3 with
  | .respSetv => .instr (.respSetv f3 body) []
  | .respSeti => .instr (.respSeti f3 body) []
  | .respTelem => .instr (.respTelem f3 body) []
  | .respModel => .instr (.respModel f3 body) []
  | .respHwver => .instr (.respHwver f3 body) []
  | .respFwver => .instr (.respFwver f3 body) []
  | .respOther => .instr (.respOther f2 f3 body) []
  | .qGet => withPayload 0 body fun _ => .qGet f2
  | .hDisconnect => withPayload 0 body fun _ => .hDisconnect f2
  | .sByte => withPayload 1 body fun p => .sByte f2 (p.getD 0 0)
  | .hConnect => withPayload 1 body fun p => .hConnect f2 (p.getD 0 0)
  | .hBaud => withPayload 1 body fun p => .hBaud f2 (p.getD 0 0)
  | .sFloat => withPayload 4 body fun p => .sFloat f2 (le32 (p.getD 0 0) (p.getD 1 0) (p.getD 2 0) (p.getD 3 0))
  | .encFrame => withPayload f3.toNat body fun p => .encFrame f0 f1 f2 p

/-- The decoder: an instruction at the front of the bytes that stand at `src`, or a refusal by name. -/
def decode (src : Source) (bytes : List Byte) : Decoded :=
  match src, bytes with
  | .ctrl, b0 :: b1 :: b2 :: b3 :: rest => .instr (decodeCommandWord (le32 b0 b1 b2 b3)) rest
  | .ctrl, _ => .refused .shortCommand
  | .frame, f0 :: f1 :: f2 :: f3 :: body => decodeFrameBody f0 f1 f2 f3 body
  | .frame, _ => .refused .shortHeader

/-! ### Encoding -/

/-- The command word of OP and SEL (R83); the ignored bits are written 0, as R83 says. -/
def commandWord (op : BitVec 3) (sel : BitVec 2) : Word := sel.setWidth 32 <<< 4 ||| op.setWidth 32

/-- The bytes of an instruction: the command word in the host's byte order (R55, R83), or the frame (R70, R91) - for a row
that the host builds, the whole frame it stands for; for a row that the decoder recognises, the received bytes. -/
def encode : Instr → List Byte
  | .nop sel => wordBytes (commandWord 0#3 sel)
  | .encode sel => wordBytes (commandWord 1#3 sel)
  | .decodeV => wordBytes (commandWord 2#3 0#2)
  | .decodeI => wordBytes (commandWord 2#3 1#2)
  | .decodeP => wordBytes (commandWord 2#3 2#2)
  | .decodeIllegalSel => wordBytes (commandWord 2#3 3#2)
  | .verify sel => wordBytes (commandWord 3#3 sel)
  | .reservedOp op sel => wordBytes (commandWord op sel)
  | .encFrame dir cmd reg payload => frameBytes dir cmd reg payload
  | .qGet reg => frameBytes 0xF1#8 0xA1#8 reg []
  | .sFloat reg bits => frameBytes 0xF1#8 0xB1#8 reg (wordBytes bits)
  | .sByte reg value => frameBytes 0xF1#8 0xB1#8 reg [value]
  | .hConnect hh payload => frameBytes 0xF1#8 0xC1#8 hh [payload]
  | .hBaud hh index => frameBytes 0xF1#8 0xB0#8 hh [index]
  | .hDisconnect hh => frameBytes 0xF1#8 0xC1#8 hh []
  | .respSetv len body => [0xF0#8, 0xA1#8, 0xC1#8, len] ++ body
  | .respSeti len body => [0xF0#8, 0xA1#8, 0xC2#8, len] ++ body
  | .respTelem len body => [0xF0#8, 0xA1#8, 0xC3#8, len] ++ body
  | .respModel len body => [0xF0#8, 0xA1#8, 0xDE#8, len] ++ body
  | .respHwver len body => [0xF0#8, 0xA1#8, 0xDF#8, len] ++ body
  | .respFwver len body => [0xF0#8, 0xA1#8, 0xE0#8, len] ++ body
  | .respOther reg len body => [0xF0#8, 0xA1#8, reg, len] ++ body

/-! ### A word of the opcode table -/

/-- Whether a table word is a FRAME row's header or a CMD row's command word. The two formats overlap as numbers (every
32-bit word is a command word); on the hardware they stand in different places. DESIGN CHOICE (log 10): a header of a
specific FRAME row is a frame; any other word that sets a bit which a command word is written 0 in (R83) is the generic
ENC.FRAME; the rest are command words. -/
def tableSource (nbits : Nat) (w : Word) : Source :=
  if classifyByTable w ≠ .encFrame then .frame
  else if 32 ≤ nbits ∧ w &&& 0xFFFFFFC8#32 ≠ 0#32 then .frame
  else .ctrl

/-- A table word laid out as the hardware stores it: a command word little-endian (R55), a header word most significant byte
first (R89), and zeros up to the longest instruction, 260 bytes. -/
def tableBytes (nbits w : Nat) : Source × List Byte :=
  let v : Word := BitVec.ofNat 32 w
  match tableSource nbits v with
  | .ctrl => (.ctrl, wordBytes v)
  | .frame => (.frame, (wordBytes v).reverse ++ List.replicate 256 0#8)

/-- The instruction that the decoder reads from a word of the opcode table, numbered as the table numbers it. -/
def decodeTableWord (nbits w : Nat) : Option Instr :=
  match decode (tableBytes nbits w).1 (tableBytes nbits w).2 with
  | .instr i _ => some i
  | .refused _ => none

end Sys2Proof
end

