-- ==== Sys2Proof/Machine/State.lean ====
section
/-!
DEFINITION. FCODEC's state (10_state R22), the model's own fields beside it (the host's pending operations, the bus
response, the record of bus errors), why a step can stop, and the state after reset (R40, R42).
-/

namespace Sys2Proof.Machine

/-- A host access is of 1, 2 or 4 bytes: "There are no other sizes" (20_memory R51). -/
inductive AccessSize where
  | byte | half | word
  deriving DecidableEq, Repr

/-- One host access to the window (R51): a write carries a 32-bit data word, of which the low 8n bits are written. -/
inductive Access where
  | load (size : AccessSize) (off : Offset)
  | store (size : AccessSize) (off : Offset) (data : Word)
  deriving DecidableEq, Repr

/-- What the outside does next (10_state R43, 30_encoding R90, R91; log 1). -/
inductive HostOp where
  /-- One access: `ld.*` or `st.*` (R90). A word store to CTRL starts a command (R177). -/
  | access (a : Access)
  /-- The frame rows of the opcode table (R91): build this frame with the encoder, or receive it and decode it, one access a
  step (R43; log 6). -/
  | frame (bytes : List Byte)
  /-- `RECV b0 b1 ...` (R90): write the bytes to RX[0..], then RX_LEN, one access a step (R43; log 1). -/
  | receive (bytes : List Byte)
  /-- `SEND` (R90, 20_memory R69): read TX[0 .. TX_LEN-1] byte by byte, one access a step, then hand them to the transport.
  `read` holds the bytes read so far, none when the host starts (log 11). -/
  | send (read : List Byte)
  /-- `WAIT` (R90, 70_reset R236): the settle delay. -/
  | wait
  /-- The reset input (70_reset R230). -/
  | reset
  /-- A power or clock gating event (60_exceptions R218). -/
  | powerEvent
  /-- An access concurrent with reset (R230): refused. -/
  | accessDuringReset (a : Access)
  /-- An access by a second host agent (R215): refused. -/
  | secondAgent (a : Access)
  deriving DecidableEq, Repr

/-- The bus slave port's answer to the last access (10_state R44). -/
inductive BusResponse where
  /-- No access has been answered yet. -/
  | idle
  /-- A write completed. -/
  | done
  /-- A read completed with this data word, zero-extended (R51). -/
  | data (w : Word)
  /-- The error bit: BusError(off) (R206). No data. -/
  | error (off : Offset)
  deriving DecidableEq, Repr

/-- What the host does with a BusError: "the host's own behaviour and is OPEN" (R206, D41; log 5). -/
inductive HostReaction where
  /-- The host stops: the step's outcome is the fault. -/
  | stop
  /-- The host records the fault and issues its next operation, as 95_test_vectors P5 does. -/
  | carryOn
  deriving DecidableEq, Repr

/-- The tag of a decoded value, RES_INFO.TAG (10_state R30). -/
inductive Tag where
  | none | voltage | current | power | byteString | unknown
  deriving DecidableEq, Repr

/-- The result code of a command, STATUS.ERR (10_state R24). -/
inductive ErrCode where
  | ok | notAResponse | truncated | illegalCmd
  deriving DecidableEq, Repr

/-- The payload shape a register id gives the decoder (41_decode R140). -/
inductive Shape where
  | float (tag : Tag) | triple | string | unknown
  deriving DecidableEq, Repr

/-- The control registers, in offset order (10_state R22). -/
inductive RegName where
  | ctrl | status | encHdr | txLen | rxLen | resInfo | resVal | dispLen | csum
  deriving DecidableEq, Repr

/-- What an offset of the window maps to (10_state R22, 20_memory R56). -/
inductive Region where
  | control (r : RegName) | txBuf | rxBuf | dispBuf | unmapped
  deriving DecidableEq, Repr

/-- The bytes of the three buffers that were written since reset, as (window offset, byte) pairs with strictly rising
offsets (log 4). A buffer byte that is not listed reads as a draw (R42). -/
abbrev Memory := List Host.Cell

/-- FCODEC's state. The first nine fields and `mem` are 10_state R22, "No other state exists"; each register is the 32-bit
word that a host read returns, whose reserved bits read 0 (R38; log 16). The last six are the model's own. -/
structure State where
  /-- CTRL, 0x000 (R25). -/
  ctrl : Word
  /-- STATUS, 0x004 (R23). -/
  status : Word
  /-- ENC_HDR, 0x008 (R26). -/
  encHdr : Word
  /-- TX_LEN, 0x00C (R27). -/
  txLen : Word
  /-- RX_LEN, 0x010 (R28). -/
  rxLen : Word
  /-- RES_INFO, 0x014 (R29). -/
  resInfo : Word
  /-- RES_VAL, 0x018 (R31). -/
  resVal : Word
  /-- DISP_LEN, 0x01C (R32). -/
  dispLen : Word
  /-- CSUM, 0x020 (R33). -/
  csum : Word
  /-- TX_BUF, RX_BUF and DISP_BUF (R34, R35, R36): the bytes written since reset. -/
  mem : Memory
  /-- MODEL: which reset the draws of unwritten buffer bytes belong to (R42; log 3). -/
  drawEpoch : Nat
  /-- MODEL: the host's operations not yet performed, oldest first (R63; log 1). -/
  hostQueue : List HostOp
  /-- MODEL: the answer to the last access (R44). -/
  response : BusResponse
  /-- MODEL: what the host does with a BusError (R206; log 5). -/
  hostReaction : HostReaction
  /-- MODEL: the BusErrors recorded for the host agent, oldest first (R206). -/
  faultLog : List Offset
  /-- MODEL: the frames handed to the transport, oldest first (20_memory R69; log 11). -/
  wire : List (List Byte)
  deriving DecidableEq, Repr

/-- Why the machine stops with a fault. -/
inductive Fault where
  /-- BusError(off): an access that the map does not allow (20_memory R52, R53, R56, R57, R58; 60_exceptions R206), raised by
  the bus operations when the host stops at a bus error (State.hostReaction). FCODEC's state is that before the access.
  Safe: the spec asks a model to record a fault and not to continue as if the access succeeded. -/
  | busError (off : Offset)
  deriving DecidableEq, Repr

/-- Why a step is refused. -/
inductive Refusal where
  /-- An instruction of the opcode table without a meaning in this model: none. Safe. -/
  | notModelled (mnemonic : String)
  /-- An access concurrent with reset (70_reset R230, D27): "a model must refuse it". Raised by the host operations. Safe. -/
  | accessDuringReset
  /-- Two host agents on one FCODEC (60_exceptions R215, D29): "a model must refuse it". Raised by the host operations. Safe. -/
  | secondAgent
  /-- ENC.FRAME with a payload of more than 255 bytes, which "has no representation in FCODEC" (40_encode R103; 93 SI3:
  `refuse`). Raised by execEncFrame; no bytes decode to it. Safe. -/
  | payloadTooLong
  /-- A frame operation whose bytes are no instruction (log 8). Raised by the step. Safe. -/
  | noInstruction (why : DecodeError)
  deriving DecidableEq, Repr

/-- The machine right after reset (R40, R42, R231): every register 0, no buffer byte written. The model's own fields: no
operation pending, nothing answered, the host stops at a bus error, nothing recorded (DESIGN CHOICE, log 1, 3, 5, 11). -/
def State.reset : State where
  ctrl := 0#32
  status := 0#32
  encHdr := 0#32
  txLen := 0#32
  rxLen := 0#32
  resInfo := 0#32
  resVal := 0#32
  dispLen := 0#32
  csum := 0#32
  mem := []
  drawEpoch := 0
  hostQueue := []
  response := .idle
  hostReaction := .stop
  faultLog := []
  wire := []

end Sys2Proof.Machine
end

