-- ==== Sys2Proof/Machine/Memory.lean ====
section
/-!
DEFINITION. The three buffers (10_state R34, R35, R36) as one canonical list of written bytes: reading a byte, writing a run
of bytes, and the form that every write keeps.
-/

namespace Sys2Proof.Machine

/-- The base offset of TX_BUF (R34). -/
def txBase : Nat := 0x400
/-- The base offset of RX_BUF (R35). -/
def rxBase : Nat := 0x800
/-- The base offset of DISP_BUF (R36). -/
def dispBase : Nat := 0xC00

/-- The window offsets that hold a buffer byte (R22): 0x400–0x503, 0x800–0x903, 0xC00–0xCFF. -/
def isBufferByte (a : Nat) : Bool :=
  (0x400 ≤ a && a < 0x504) || (0x800 ≤ a && a < 0x904) || (0xC00 ≤ a && a < 0xD00)

/-- The byte that a written location holds; `none` where nothing has been written since reset. -/
def Memory.get? : Memory → Nat → Option Byte
  | [], _ => none
  | c :: m, a => if c.1 = a then some c.2 else Memory.get? m a

/-- The cells of a run of bytes from offset `a` upward. -/
def cellsFrom : Nat → List Byte → Memory
  | _, [] => []
  | a, b :: bs => (a, b) :: cellsFrom (a + 1) bs

/-- Write a run of bytes from offset `a` upward; every other location keeps what it holds. -/
def Memory.write (m : Memory) (a : Nat) (bs : List Byte) : Memory :=
  m.filter (fun c => c.1 < a) ++ cellsFrom a bs ++ m.filter (fun c => a + bs.length ≤ c.1)

/-- The canonical form: offsets strictly rising, each the offset of a buffer byte. -/
abbrev Memory.wf (m : Memory) : Prop :=
  m.Pairwise (fun c d => c.1 < d.1) ∧ ∀ c ∈ m, isBufferByte c.1 = true

end Sys2Proof.Machine
end

