-- ==== Sys2Proof/Machine/Operands.lean ====
section
/-!
DEFINITION. What a command reads: fields of the control registers, bytes of the buffers, assembled payload values
(00_scope R11, R12; 10_state R25–R29; 30_encoding R77–R80; 41_decode R140).
-/

namespace Sys2Proof.Machine

/-- The byte a location reads as (R42): what was written since reset, else the draw of this reset. -/
def State.readByte (s : State) (a : Nat) : Byte :=
  match s.mem.get? a with
  | some b => b
  | none => Config.unwrittenByte s.drawEpoch a

/-- `TX[i]` (R12, R34). -/
def State.tx (s : State) (i : Nat) : Byte := s.readByte (txBase + i)

/-- `RX[i]` (R12, R35). -/
def State.rx (s : State) (i : Nat) : Byte := s.readByte (rxBase + i)

/-- `DISP[i]` (R12, R36). -/
def State.disp (s : State) (i : Nat) : Byte := s.readByte (dispBase + i)

/-- `TX[i .. i+n-1]`. -/
def State.txBytes (s : State) (i n : Nat) : List Byte := (List.range n).map fun k => s.tx (i + k)

/-- `RX[i .. i+n-1]`. -/
def State.rxBytes (s : State) (i n : Nat) : List Byte := (List.range n).map fun k => s.rx (i + k)

/-- CTRL.OP (R25). -/
def State.ctrlOp (s : State) : BitVec 3 := s.ctrl.extractLsb' 0 3

/-- CTRL.SEL (R25, R85). -/
def State.ctrlSel (s : State) : BitVec 2 := s.ctrl.extractLsb' 4 2

/-- ENC_HDR.DIR (R26). -/
def State.encDir (s : State) : Byte := s.encHdr.extractLsb' 0 8

/-- ENC_HDR.CMD (R26). -/
def State.encCmd (s : State) : Byte := s.encHdr.extractLsb' 8 8

/-- ENC_HDR.REG (R26). -/
def State.encReg (s : State) : Byte := s.encHdr.extractLsb' 16 8

/-- ENC_HDR.PLEN (R26). -/
def State.encPlen (s : State) : Byte := s.encHdr.extractLsb' 24 8

/-- The encoder's payload, `TX[4 .. 4+PLEN-1]`, read in place (40_encode R101). -/
def State.encPayload (s : State) : List Byte := s.txBytes 4 s.encPlen.toNat

/-- RX_LEN as a number: the source's `buffer.len()` (R28). -/
def State.rxCount (s : State) : Nat := s.rxLen.toNat

/-- `le32(RX[i], RX[i+1], RX[i+2], RX[i+3])` (30_encoding R78). -/
def State.rxFloat (s : State) (i : Nat) : Word := le32 (s.rx i) (s.rx (i + 1)) (s.rx (i + 2)) (s.rx (i + 3))

/-- The register table (41_decode R140): the payload shape a register id gives the decoder. -/
def shapeOf (reg : Byte) : Shape :=
  if reg = 0xC1#8 then .float .voltage
  else if reg = 0xC2#8 then .float .current
  else if reg = 0xC3#8 then .triple
  else if reg = 0xDE#8 then .string
  else if reg = 0xDF#8 then .string
  else if reg = 0xE0#8 then .string
  else .unknown

/-- The tag of the selected telemetry value, `[1,2,3][sel]` (41_decode R130, R142). -/
def telemetryTag (sel : BitVec 2) : Tag :=
  if sel = 0#2 then .voltage else if sel = 1#2 then .current else .power

/-- "only bytes in the printable ASCII range 0x20–0x7E are considered display-safe" (41_decode R144). -/
def printable (b : Byte) : Bool := 0x20#8 ≤ b && b ≤ 0x7E#8

end Sys2Proof.Machine
end

