-- ==== Sys2Proof/Machine/Flags.lean ====
section
/-!
DEFINITION. What a command reports: the codes of STATUS.ERR and RES_INFO.TAG (10_state R24, R30), the words STATUS, CSUM and
RES_INFO (R23, R29, R33), and the checksum flags (42_verify R171).
-/

namespace Sys2Proof.Machine

/-- The code of a result (R24). -/
def ErrCode.code : ErrCode → BitVec 4
  | .ok => 0#4
  | .notAResponse => 1#4
  | .truncated => 2#4
  | .illegalCmd => 3#4

/-- The code of a tag (R30). -/
def Tag.code : Tag → BitVec 3
  | .none => 0#3
  | .voltage => 1#3
  | .current => 2#3
  | .power => 3#3
  | .byteString => 4#3
  | .unknown => 5#3

/-- `status(err, ok, present, op)` (R23): `op<<8 | present<<5 | ok<<4 | err`. -/
def statusWord (err : ErrCode) (ok present : Bool) (op : BitVec 3) : Word :=
  op.setWidth 32 <<< 8 ||| (BitVec.ofBool present).setWidth 32 <<< 5 ||| (BitVec.ofBool ok).setWidth 32 <<< 4 |||
    err.code.setWidth 32

/-- CSUM (R33): RECV (`received`) in [15:8], CALC (`computed`) in [7:0]. -/
def csumWord (received computed : Byte) : Word := received.setWidth 32 <<< 8 ||| computed.setWidth 32

/-- RES_INFO (R29): TAG in [18:16], RLEN in [15:8], RREG in [7:0]. -/
def resInfoWord (tag : Tag) (rlen rreg : Byte) : Word :=
  tag.code.setWidth 32 <<< 16 ||| rlen.setWidth 32 <<< 8 ||| rreg.setWidth 32

/-- CTRL after a write (R25, 42_verify R177): SEL in [5:4], OP in [2:0], every other bit 0. -/
def ctrlWord (op : BitVec 3) (sel : BitVec 2) : Word := sel.setWidth 32 <<< 4 ||| op.setWidth 32

/-- The exact integer sum of bytes. -/
def byteSum (bs : List Byte) : Nat := (bs.map BitVec.toNat).sum

/-- The checksum as the commands compute it (40_encode R100, R104; 42_verify R171): the exact integer sum of register, length
and payload, reduced modulo 256. -/
def checksumOf (reg len : Byte) (payload : List Byte) : Byte :=
  BitVec.ofNat 8 ((reg.toNat + len.toNat + byteSum payload) % 256)

/-- What `CHK()` returns (R171); `computed` is its calc, `received` its recv. -/
structure CheckResult where
  ok : Bool
  present : Bool
  computed : Byte
  received : Byte
  deriving DecidableEq, Repr

/-- `CHK()` (42_verify R171, R172, R173): the checksum of the frame in RX_BUF. RX[3] is read only when RX_LEN ≥ 4, the rest
only when the checksum byte lies inside the buffer. -/
def State.check (s : State) : CheckResult :=
  let n := s.rxCount
  let dlen := (s.rx 3).toNat
  if n < 4 then ⟨false, false, 0#8, 0#8⟩
  else if n < 5 + dlen then ⟨false, false, 0#8, 0#8⟩
  else
    let computed := checksumOf (s.rx 2) (s.rx 3) (s.rxBytes 4 dlen)
    let received := s.rx (4 + dlen)
    ⟨computed == received, true, computed, received⟩

end Sys2Proof.Machine
end

