-- ==== Sys2Proof/Machine/Ops.lean ====
section
/-!
DEFINITION. The named operations: updates of the state, the bus error, reset, the codec commands, and the host's accesses to
the window (20_memory R50–R60). FCODEC takes no exception and returns from none: "A command never transfers control, saves
state, changes mode or masks anything" (60_exceptions R200, R211, R212); an error is a value in STATUS (State.report) or the
bus error response (busError).
-/

namespace Sys2Proof.Machine

/-! ### Updates -/

/-- Write a run of buffer bytes from a window offset upward. -/
def State.writeBytes (s : State) (a : Nat) (bs : List Byte) : State := { s with mem := s.mem.write a bs }

/-- The bus answer to the access just performed (R44). -/
def State.respond (s : State) (r : BusResponse) : State := { s with response := r }

/-- The host's oldest operation is taken from the queue. -/
def State.dequeue (s : State) (rest : List HostOp) : State := { s with hostQueue := rest }

/-- These accesses are the host's next operations, before all that is pending. -/
def State.willIssue (s : State) (as : List Access) : State := { s with hostQueue := as.map .access ++ s.hostQueue }

/-- `CTRL <- (w & 0x37)` (42_verify R177). -/
def State.setCtrl (s : State) (op : BitVec 3) (sel : BitVec 2) : State := { s with ctrl := ctrlWord op sel }

/-- `STATUS <- status(err, ok, present, op)`: how every command reports (R37, R200). -/
def State.report (s : State) (err : ErrCode) (ok present : Bool) (op : BitVec 3) : State :=
  { s with status := statusWord err ok present op }

/-! ### Errors and reset -/

/-- `raise BusError(off)` (00_scope R12, 60_exceptions R206): the error response. No FCODEC state changes. The fault is the
step's outcome where the host stops at it, and is recorded for the host where it carries on (log 5). -/
def busError (off : Offset) (s : State) : Host.Outcome State Fault Refusal :=
  match s.hostReaction with
  | .stop => .fault (.busError off)
  | .carryOn => .next { s with response := .error off, faultLog := s.faultLog ++ [off] }

/-- Reset (70_reset R230): every register at R40's value, every buffer byte unspecified again (a new draw, R42). The host's
side of the state is not FCODEC's and stays (log 12). -/
def State.resetFcodec (s : State) : State :=
  { State.reset with
    drawEpoch := s.drawEpoch + 1
    hostQueue := s.hostQueue
    response := s.response
    hostReaction := s.hostReaction
    faultLog := s.faultLog
    wire := s.wire }

/-! ### The codec commands -/

/-- NOP (42_verify R175): clears STATUS. -/
def nopCommand (sel : BitVec 2) (s : State) : State := (s.setCtrl 0#3 sel).report .ok false false 0#3

/-- A command word that performs no command (R176, 41_decode R151, 60_exceptions R204): ERR = ILLEGAL_CMD, LAST_OP = OP. -/
def illegalCommand (op : BitVec 3) (sel : BitVec 2) (s : State) : State :=
  (s.setCtrl op sel).report .illegalCmd false false op

/-- ENCODE (40_encode R100): the header in TX[0..3], the checksum in TX[4+PLEN], the payload between them left in place. -/
def encodeCommand (sel : BitVec 2) (s : State) : State :=
  let n := s.encPlen.toNat
  let sum := checksumOf s.encReg s.encPlen s.encPayload
  let built := (s.writeBytes txBase [s.encDir, s.encCmd, s.encReg, s.encPlen]).writeBytes (txBase + 4 + n) [sum]
  ({ built with txLen := BitVec.ofNat 32 (n + 5), csum := csumWord 0#8 sum }.setCtrl 1#3 sel).report .ok false false 1#3

/-- VERIFY (42_verify R170). -/
def verifyCommand (sel : BitVec 2) (s : State) : State :=
  let c := s.check
  ({ s with csum := csumWord c.received c.computed }.setCtrl 3#3 sel).report .ok c.ok c.present 3#3

/-- What DECODE extracts (41_decode R130): the result code, RES_INFO's fields, RES_VAL and the display bytes. -/
structure DecodeResult where
  err : ErrCode
  tag : Tag
  rlen : Byte
  rreg : Byte
  value : Word
  display : List Byte
  deriving DecidableEq, Repr

/-- A DECODE that extracts no value from a frame that passed the gate (R135, R137, R138, R145). -/
def noValue (err : ErrCode) (tag : Tag) (rlen rreg : Byte) : DecodeResult := ⟨err, tag, rlen, rreg, 0#32, []⟩

/-- The validation gate (R133). RX[0] and RX[1] are read only when RX_LEN > 6. -/
def State.responseGate (s : State) : Bool := 6 < s.rxCount && (s.rx 0 == 0xF0#8 && s.rx 1 == 0xA1#8)

/-- Extraction by shape (R137–R146), for a frame that passed the gate: the bounds and shape tests, then the value. -/
def State.extract (s : State) (shape : Shape) (sel : BitVec 2) (reg dlen : Byte) : DecodeResult :=
  let tooShort := noValue .truncated .none dlen reg
  match shape with
  | .unknown => noValue .ok .unknown dlen reg
  | .float tag =>
      if s.rxCount < 4 + dlen.toNat ∨ dlen.toNat < 4 then tooShort
      else { noValue .ok tag dlen reg with value := s.rxFloat 4 }
  | .triple =>
      if s.rxCount < 4 + dlen.toNat ∨ dlen.toNat < 12 then tooShort
      else { noValue .ok (telemetryTag sel) dlen reg with value := s.rxFloat (4 + 4 * sel.toNat) }
  | .string =>
      if s.rxCount < 4 + dlen.toNat then tooShort
      else { noValue .ok .byteString dlen reg with display := (s.rxBytes 4 dlen.toNat).filter printable }

/-- The outcome of a DECODE with a legal selector (R130, R152). -/
def State.decodeResult (s : State) (sel : BitVec 2) : DecodeResult :=
  if s.responseGate then s.extract (shapeOf (s.rx 2)) sel (s.rx 2) (s.rx 3)
  else noValue .notAResponse .none 0#8 0#8

/-- The 256 bytes of DISP_BUF after a DECODE (R132, R144): the display bytes, then zeros. -/
def displayImage (display : List Byte) : List Byte := display ++ List.replicate (256 - display.length) 0#8

/-- DECODE (41_decode R130). SEL = 3 performs no decode (R151). -/
def decodeCommand (sel : BitVec 2) (s : State) : State :=
  if sel = 3#2 then illegalCommand 2#3 sel s
  else
    let c := s.check
    let r := s.decodeResult sel
    (({ s with
        csum := csumWord c.received c.computed
        resInfo := resInfoWord r.tag r.rlen r.rreg
        resVal := r.value
        dispLen := BitVec.ofNat 32 r.display.length }.writeBytes dispBase (displayImage r.display)).setCtrl 2#3 sel).report
      r.err c.ok c.present 2#3

/-! ### The host's accesses -/

/-- The number of bytes of an access (20_memory R51). -/
def AccessSize.bytes : AccessSize → Nat
  | .byte => 1
  | .half => 2
  | .word => 4

/-- The control register at word index k of the window (R22). -/
def controlAt : Nat → RegName
  | 0 => .ctrl
  | 1 => .status
  | 2 => .encHdr
  | 3 => .txLen
  | 4 => .rxLen
  | 5 => .resInfo
  | 6 => .resVal
  | 7 => .dispLen
  | _ => .csum

/-- The map of the window (10_state R22, 20_memory R54, R56). -/
def regionOf (off : Offset) : Region :=
  let o := off.toNat
  if o < 0x024 then .control (controlAt (o / 4))
  else if o < 0x400 then .unmapped
  else if o < 0x504 then .txBuf
  else if o < 0x800 then .unmapped
  else if o < 0x904 then .rxBuf
  else if o < 0xC00 then .unmapped
  else if o < 0xD00 then .dispBuf
  else .unmapped

/-- An access of n bytes has `off mod n = 0` (R52). -/
def aligned (n : AccessSize) (off : Offset) : Bool := off.toNat % n.bytes == 0

/-- The reads that the map allows (R52, R53, R54, R56). -/
def loadAllowed (n : AccessSize) (off : Offset) : Bool :=
  aligned n off &&
    match regionOf off with
    | .control _ => n == .word
    | .txBuf | .rxBuf | .dispBuf => true
    | .unmapped => false

/-- The writes that the map allows (R52, R53, R54, R56, R57), RX_LEN's only up to 260 (R58). -/
def storeAllowed (n : AccessSize) (off : Offset) (v : Word) : Bool :=
  aligned n off &&
    match regionOf off with
    | .control .ctrl => n == .word
    | .control .encHdr => n == .word
    | .control .rxLen => n == .word && v.toNat ≤ 260
    | .control _ => false
    | .txBuf | .rxBuf => true
    | .dispBuf | .unmapped => false

/-- The 32-bit value a control register reads as (R55). -/
def State.readControl (s : State) : RegName → Word
  | .ctrl => s.ctrl
  | .status => s.status
  | .encHdr => s.encHdr
  | .txLen => s.txLen
  | .rxLen => s.rxLen
  | .resInfo => s.resInfo
  | .resVal => s.resVal
  | .dispLen => s.dispLen
  | .csum => s.csum

/-- `MemRead(off, n)` of a buffer (R55): little-endian, zero-extended. -/
def State.readBuffer (s : State) (n : AccessSize) (a : Nat) : Word :=
  match n with
  | .byte => le32 (s.readByte a) 0#8 0#8 0#8
  | .half => le32 (s.readByte a) (s.readByte (a + 1)) 0#8 0#8
  | .word => le32 (s.readByte a) (s.readByte (a + 1)) (s.readByte (a + 2)) (s.readByte (a + 3))

/-- A host read (R51, R55, R59): the data, or the bus error; no state of FCODEC changes. -/
def hostLoad (n : AccessSize) (off : Offset) (s : State) : Host.Outcome State Fault Refusal :=
  if loadAllowed n off then
    match regionOf off with
    | .control r => .next (s.respond (.data (s.readControl r)))
    | .txBuf | .rxBuf | .dispBuf | .unmapped => .next (s.respond (.data (s.readBuffer n off.toNat)))
  else busError off s

/-- A host write (R51, R55, R57, R58): the data stored, or the bus error. A write of CTRL stores OP and SEL (R177); the command
that it starts is the step's (Machine/Step.lean). -/
def hostStore (n : AccessSize) (off : Offset) (v : Word) (s : State) : Host.Outcome State Fault Refusal :=
  if storeAllowed n off v then
    match regionOf off with
    | .control .ctrl => .next ((s.setCtrl (v.extractLsb' 0 3) (v.extractLsb' 4 2)).respond .done)
    | .control .encHdr => .next ({ s with encHdr := v }.respond .done)
    | .control .rxLen => .next ({ s with rxLen := v }.respond .done)
    | .control _ => busError off s
    | .txBuf | .rxBuf => .next ((s.writeBytes off.toNat ((wordBytes v).take n.bytes)).respond .done)
    | .dispBuf | .unmapped => busError off s
  else busError off s

/-- One access of a host program (30_encoding R90). Every access that the map admits is performed, whichever host software issues
it: whether the platform's protection lets it reach the window is OPEN (60_exceptions R213, D30), and the model takes every
access of the queue as one that does (DESIGN CHOICE, log 20). -/
def hostAccess (a : Access) (s : State) : Host.Outcome State Fault Refusal :=
  match a with
  | .load n off => hostLoad n off s
  | .store n off v => hostStore n off v s

/-- The window offset of a number; past the window's end there is none, and the last offset, which nothing maps, stands for
it (R50, R56: the access is a bus error). -/
def windowOffset (a : Nat) : Offset := BitVec.ofNat 12 (min a 0xFFF)

/-- `st.b base+i, b_i` for each byte, in index order (30_encoding R90, 40_encode R110). -/
def byteStores (base : Nat) : List Byte → List Access
  | [] => []
  | b :: bs => .store .byte (windowOffset base) (b.setWidth 32) :: byteStores (base + 1) bs

/-- The host's accesses in its program order (20_memory R63), one step for each (10_state R43): the first is performed now, the
others are the host's next operations, a CTRL write among them with the command that it starts (log 6). No list of the model
begins with a CTRL write. -/
def issueAccesses (as : List Access) (s : State) : Host.Outcome State Fault Refusal :=
  match as with
  | [] => .next s
  | a :: rest => hostAccess a (s.willIssue rest)

/-- The helper encodings (40_encode R110–R116): the payload's stores, ENC_HDR, then `ENCODE` (st.w 0x000, 0x1). -/
def buildFrame (payloadStores : List Access) (header : Word) (s : State) : Host.Outcome State Fault Refusal :=
  issueAccesses (payloadStores ++ [.store .word 0x008#12 header, .store .word 0x000#12 0x1#32]) s

/-- `RECV b0 b1 ...` (R90, 20_memory R69): `st.b` of each byte to RX[0..] in arrival order, then `st.w 0x010, n`. -/
def receiveAccesses (bytes : List Byte) : List Access :=
  byteStores rxBase bytes ++ [.store .word 0x010#12 (BitVec.ofNat 32 bytes.length)]

/-- A received frame and its DECODE (60_exceptions R216 "receive", "decode"): RECV, then DECODE with the selector that CTRL
holds (DESIGN CHOICE, log 7). -/
def receiveAndDecode (bytes : List Byte) (s : State) : Host.Outcome State Fault Refusal :=
  issueAccesses (receiveAccesses bytes ++ [.store .word 0x000#12 (commandWord 2#3 s.ctrlSel)]) s

/-- After the host's read of one more byte of the frame it sends: the byte joins those read. A read answered by BusError gives
no byte (R52, R206), and the host hands over nothing. -/
def State.keepSending (s : State) (read : List Byte) : State :=
  match s.response with
  | .data w => { s with hostQueue := .send (read ++ [w.setWidth 8]) :: s.hostQueue }
  | .idle | .done | .error _ => s

/-- `SEND` (R90, 20_memory R61, R69): while bytes of TX[0 .. TX_LEN-1] are left to read, `ld.b` of the next one in index order;
then the handover to the transport, which is no access of FCODEC (log 11). -/
def sendNext (read : List Byte) (s : State) : Host.Outcome State Fault Refusal :=
  if read.length < s.txLen.toNat then
    match hostLoad .byte (windowOffset (txBase + read.length)) s with
    | .next t => .next (t.keepSending read)
    | .fault r => .fault r
    | .refused r => .refused r
  else .next { s with wire := s.wire ++ [read] }

/-! ### What an item of the host's queue asks for -/

/-- The bytes of an instruction that a host operation presents, and where they stand: a word write to CTRL (42_verify R177:
"Every 4-byte write of a value w to CTRL"), or a frame. -/
def fetchBytes : HostOp → Option (Source × List Byte)
  | .access (.store .word off v) => if off = 0#12 then some (.ctrl, wordBytes v) else none
  | .frame bytes => some (.frame, bytes)
  | _ => none

/-- The host operations that are no instruction: every other access, RECV, SEND, WAIT, reset and power events, and the two
that a model must refuse (R230, R215). -/
def serveHostOp (op : HostOp) (s : State) : Host.Outcome State Fault Refusal :=
  match op with
  | .access a => hostAccess a s
  | .frame _ => .next s
  | .receive bytes => issueAccesses (receiveAccesses bytes) s
  | .send read => sendNext read s
  | .wait => .next s
  | .reset => .next s.resetFcodec
  | .powerEvent => .next s.resetFcodec
  | .accessDuringReset _ => .refused .accessDuringReset
  | .secondAgent _ => .refused .secondAgent

/-- The host operation that presents a word of the opcode table: a word store to CTRL, or the frame. -/
def tableHostOp (nbits w : Nat) : HostOp :=
  match tableSource nbits (BitVec.ofNat 32 w) with
  | .ctrl => .access (.store .word 0x000#12 (BitVec.ofNat 32 w))
  | .frame => .frame (tableBytes nbits w).2

end Sys2Proof.Machine
end

