-- ==== Sys2Proof/Machine/Commands.lean ====
section
/-!
DEFINITION. The eight command rows (format CMD32): what a word write to CTRL performs (42_verify R177, 40_encode R100,
41_decode R130, R151, 42_verify R170, R175, R176). Every word has an outcome; none is a fault.
-/

namespace Sys2Proof.Machine

/-- NOP (R175). -/
def execNop (sel : BitVec 2) (s : State) : Host.Outcome State Fault Refusal := .next (nopCommand sel s)

/-- ENCODE (R100). -/
def execEncode (sel : BitVec 2) (s : State) : Host.Outcome State Fault Refusal := .next (encodeCommand sel s)

/-- DECODE.V: SEL = 0, VOLTAGE (R130, R85). -/
def execDecodeV (s : State) : Host.Outcome State Fault Refusal := .next (decodeCommand 0#2 s)

/-- DECODE.I: SEL = 1, CURRENT (R130, R85). -/
def execDecodeI (s : State) : Host.Outcome State Fault Refusal := .next (decodeCommand 1#2 s)

/-- DECODE.P: SEL = 2, POWER (R130, R85). -/
def execDecodeP (s : State) : Host.Outcome State Fault Refusal := .next (decodeCommand 2#2 s)

/-- DECODE.ILLEGAL_SEL: SEL = 3 performs no decode and reports ILLEGAL_CMD (R151). -/
def execDecodeIllegalSel (s : State) : Host.Outcome State Fault Refusal := .next (illegalCommand 2#3 3#2 s)

/-- VERIFY (R170). -/
def execVerify (sel : BitVec 2) (s : State) : Host.Outcome State Fault Refusal := .next (verifyCommand sel s)

/-- RESERVED.OP: no command, ILLEGAL_CMD, LAST_OP = OP (R176). -/
def execReservedOp (op : BitVec 3) (sel : BitVec 2) (s : State) : Host.Outcome State Fault Refusal :=
  .next (illegalCommand op sel s)

end Sys2Proof.Machine
end

