-- ==== Sys2Proof/Machine/Helpers.lean ====
section
/-!
DEFINITION. The seven frame rows that the host builds (40_encode R110–R116): each expands into the host accesses the rule
shows and ends in ENCODE, "so its semantics are those of rule R100 applied to the state the expansion leaves". The meaning
performs the first access and leaves the others to the host's next steps, one access a step (10_state R43; log 6).
-/

namespace Sys2Proof.Machine

/-- ENC.FRAME d, c, r, [p0, ...] (R110): `st.b 0x404+i, p_i`; `st.w 0x008, d | c<<8 | r<<16 | n<<24`; ENCODE. A payload of more
than 255 bytes cannot be requested (R103, SI3). -/
def execEncFrame (dir cmd reg : Byte) (payload : List Byte) (s : State) : Host.Outcome State Fault Refusal :=
  if 255 < payload.length then .refused .payloadTooLong
  else buildFrame (byteStores 0x404 payload) (le32 dir cmd reg (BitVec.ofNat 8 payload.length)) s

/-- ENC.QUERY r (R111): `st.w 0x008, 0x0000A1F1 | r<<16`; ENCODE. -/
def execQGet (reg : Byte) (s : State) : Host.Outcome State Fault Refusal :=
  buildFrame [] (0x0000A1F1#32 ||| reg.setWidth 32 <<< 16) s

/-- ENC.SETF r, bits (R112): `st.w 0x404, bits`; `st.w 0x008, 0x0400B1F1 | r<<16`; ENCODE. -/
def execSFloat (reg : Byte) (bits : Word) (s : State) : Host.Outcome State Fault Refusal :=
  buildFrame [.store .word 0x404#12 bits] (0x0400B1F1#32 ||| reg.setWidth 32 <<< 16) s

/-- ENC.SETB r, b (R113): `st.b 0x404, b`; `st.w 0x008, 0x0100B1F1 | r<<16`; ENCODE. -/
def execSByte (reg value : Byte) (s : State) : Host.Outcome State Fault Refusal :=
  buildFrame [.store .byte 0x404#12 (value.setWidth 32)] (0x0100B1F1#32 ||| reg.setWidth 32 <<< 16) s

/-- ENC.CONNECT (R114): `st.b 0x404, 0x01`; `st.w 0x008, 0x0100C1F1 | hh<<16`; ENCODE. The payload byte is an operand, 0x01 in
every well-formed H.CONNECT; with another byte this is R110's sequence for that frame (log 9). -/
def execHConnect (hh payload : Byte) (s : State) : Host.Outcome State Fault Refusal :=
  buildFrame [.store .byte 0x404#12 (payload.setWidth 32)] (0x0100C1F1#32 ||| hh.setWidth 32 <<< 16) s

/-- ENC.BAUD idx (R115): `st.b 0x404, idx`; `st.w 0x008, 0x0100B0F1 | hh<<16`; ENCODE. -/
def execHBaud (hh index : Byte) (s : State) : Host.Outcome State Fault Refusal :=
  buildFrame [.store .byte 0x404#12 (index.setWidth 32)] (0x0100B0F1#32 ||| hh.setWidth 32 <<< 16) s

/-- ENC.DISCONNECT (R116): `st.w 0x008, 0x0000C1F1 | hh<<16`; ENCODE. -/
def execHDisconnect (hh : Byte) (s : State) : Host.Outcome State Fault Refusal :=
  buildFrame [] (0x0000C1F1#32 ||| hh.setWidth 32 <<< 16) s

end Sys2Proof.Machine
end

