-- ==== Sys2Proof/Machine/Responses.lean ====
section
/-!
DEFINITION. The seven frame rows that the decoder recognises (30_encoding R91, 41_decode R140–R145): the frame is received into
RX_BUF and decoded (60_exceptions R216 "receive", "decode"). What comes of it - a value, TRUNCATED, NOT_A_RESPONSE for a buffer
of 6 bytes or fewer, UNKNOWN - is R130's. The meaning performs the first access and
leaves the others to the host's next steps, one access a step (10_state R43; log 6, 7).
-/

namespace Sys2Proof.Machine

/-- RESP.SETV, F0 A1 C1 ll: decodes to VOLTAGE (R141). -/
def execRespSetv (len : Byte) (body : List Byte) (s : State) : Host.Outcome State Fault Refusal :=
  receiveAndDecode ([0xF0#8, 0xA1#8, 0xC1#8, len] ++ body) s

/-- RESP.SETI, F0 A1 C2 ll: decodes to CURRENT (R141). -/
def execRespSeti (len : Byte) (body : List Byte) (s : State) : Host.Outcome State Fault Refusal :=
  receiveAndDecode ([0xF0#8, 0xA1#8, 0xC2#8, len] ++ body) s

/-- RESP.TELEM, F0 A1 C3 ll: decodes to VOLTAGE, CURRENT or POWER by SEL (R142). -/
def execRespTelem (len : Byte) (body : List Byte) (s : State) : Host.Outcome State Fault Refusal :=
  receiveAndDecode ([0xF0#8, 0xA1#8, 0xC3#8, len] ++ body) s

/-- RESP.MODEL, F0 A1 DE ll: decodes to BYTESTRING (R143, R144). -/
def execRespModel (len : Byte) (body : List Byte) (s : State) : Host.Outcome State Fault Refusal :=
  receiveAndDecode ([0xF0#8, 0xA1#8, 0xDE#8, len] ++ body) s

/-- RESP.HWVER, F0 A1 DF ll: decodes to BYTESTRING (R143, R144). -/
def execRespHwver (len : Byte) (body : List Byte) (s : State) : Host.Outcome State Fault Refusal :=
  receiveAndDecode ([0xF0#8, 0xA1#8, 0xDF#8, len] ++ body) s

/-- RESP.FWVER, F0 A1 E0 ll: decodes to BYTESTRING (R143, R144). -/
def execRespFwver (len : Byte) (body : List Byte) (s : State) : Host.Outcome State Fault Refusal :=
  receiveAndDecode ([0xF0#8, 0xA1#8, 0xE0#8, len] ++ body) s

/-- RESP.OTHER, F0 A1 rr ll: a register not in the register table decodes to UNKNOWN (R145). -/
def execRespOther (reg len : Byte) (body : List Byte) (s : State) : Host.Outcome State Fault Refusal :=
  receiveAndDecode ([0xF0#8, 0xA1#8, reg, len] ++ body) s

end Sys2Proof.Machine
end

