-- ==== Sys2Proof/Machine/Dispatch.lean ====
section
/-!
DEFINITION. One arm per row of spec/opcode_table.json, each one direct call of its meaning.
-/

namespace Sys2Proof.Machine

def exec (i : Instr) (s : State) : Host.Outcome State Fault Refusal :=
  match i with
  | .nop sel => Sys2Proof.Machine.execNop sel s
  | .encode sel => Sys2Proof.Machine.execEncode sel s
  | .decodeV => Sys2Proof.Machine.execDecodeV s
  | .decodeI => Sys2Proof.Machine.execDecodeI s
  | .decodeP => Sys2Proof.Machine.execDecodeP s
  | .decodeIllegalSel => Sys2Proof.Machine.execDecodeIllegalSel s
  | .verify sel => Sys2Proof.Machine.execVerify sel s
  | .reservedOp op sel => Sys2Proof.Machine.execReservedOp op sel s
  | .encFrame dir cmd reg payload => Sys2Proof.Machine.execEncFrame dir cmd reg payload s
  | .qGet reg => Sys2Proof.Machine.execQGet reg s
  | .sFloat reg bits => Sys2Proof.Machine.execSFloat reg bits s
  | .sByte reg value => Sys2Proof.Machine.execSByte reg value s
  | .hConnect hh payload => Sys2Proof.Machine.execHConnect hh payload s
  | .hBaud hh index => Sys2Proof.Machine.execHBaud hh index s
  | .hDisconnect hh => Sys2Proof.Machine.execHDisconnect hh s
  | .respSetv len body => Sys2Proof.Machine.execRespSetv len body s
  | .respSeti len body => Sys2Proof.Machine.execRespSeti len body s
  | .respTelem len body => Sys2Proof.Machine.execRespTelem len body s
  | .respModel len body => Sys2Proof.Machine.execRespModel len body s
  | .respHwver len body => Sys2Proof.Machine.execRespHwver len body s
  | .respFwver len body => Sys2Proof.Machine.execRespFwver len body s
  | .respOther reg len body => Sys2Proof.Machine.execRespOther reg len body s

end Sys2Proof.Machine
end

