-- ==== Sys2Proof/Machine/Step.lean ====
section
/-!
DEFINITION. One step of the machine: the host's oldest pending operation is performed, at most one access of it ("one step per
host access", 10_state R43, 20_memory R63). An operation that presents an instruction - a word write to CTRL (42_verify R177), a
frame - is decoded and executed.
-/

namespace Sys2Proof.Machine

/-- One step. With nothing pending FCODEC keeps its state: it "executes nothing until the host writes CTRL" (70_reset R232;
log 2). -/
def step (s : State) : Host.Outcome State Fault Refusal :=
  match s.hostQueue with
  | [] => .next s
  | op :: rest =>
    match fetchBytes op with
    | some (src, bytes) =>
      match decode src bytes with
      | .instr i _ => exec i ((s.dequeue rest).respond .done)
      | .refused why => .refused (.noInstruction why)
    | none => serveHostOp op (s.dequeue rest)

/-- `s` with a word of the opcode table as the host's next operation, so that the very next step decodes and runs it (log 1,
10). -/
def State.withFetchWord (s : State) (nbits w : Nat) : State :=
  { s with hostQueue := tableHostOp nbits w :: s.hostQueue }

end Sys2Proof.Machine
end

