-- ==== Sys2Proof/Safety.lean ====
section
/-!
DEFINITION. The words that claims are stated in: the legal states (what the spec says no state ever breaks), the buffer bytes a
command reads (10_state R42), what a command leaves alone (R41), the single accesses behind a frame row (40_encode R110–R116,
30_encoding R90), and the host's session frames (70_reset R234, R235).
-/

namespace Sys2Proof.Machine

/-! ### Legal states -/

/-- STATUS.ERR (R23). -/
def State.err (s : State) : BitVec 4 := s.status.extractLsb' 0 4

/-- STATUS.CSUM_OK (R23). -/
def State.csumOk (s : State) : Bool := s.status.getLsbD 4

/-- STATUS.CSUM_PRESENT (R23). -/
def State.csumPresent (s : State) : Bool := s.status.getLsbD 5

/-- STATUS.LAST_OP (R23). -/
def State.lastOp (s : State) : BitVec 3 := s.status.extractLsb' 8 3

/-- RES_INFO.RREG (R29). -/
def State.rreg (s : State) : Byte := s.resInfo.extractLsb' 0 8

/-- RES_INFO.RLEN (R29). -/
def State.rlen (s : State) : Byte := s.resInfo.extractLsb' 8 8

/-- RES_INFO.TAG (R29, R30). -/
def State.tag (s : State) : BitVec 3 := s.resInfo.extractLsb' 16 3

/-- CSUM.CALC (R33). -/
def State.calcByte (s : State) : Byte := s.csum.extractLsb' 0 8

/-- CSUM.RECV (R33). -/
def State.recvByte (s : State) : Byte := s.csum.extractLsb' 8 8

/-- What holds in every state of FCODEC, each field with its rule. -/
structure State.Legal (s : State) : Prop where
  /-- The buffers' list is in its one canonical form (log 4). -/
  mem_wf : s.mem.wf
  /-- CTRL's reserved bits read 0 (R25, R38). -/
  ctrl_reserved : s.ctrl &&& 0xFFFFFFC8#32 = 0#32
  /-- STATUS's reserved bits read 0 (R23, R38). -/
  status_reserved : s.status &&& 0xFFFFF8C0#32 = 0#32
  /-- ERR codes 4–15 are never produced (R24, 93 U7). -/
  err_code : s.err.toNat ≤ 3
  /-- LAST_OP is the OP field of the last CTRL write, which CTRL holds (R23, R25). -/
  last_op : s.lastOp = s.ctrlOp
  /-- A checksum can match only where there is a checksum byte (R23, R171). -/
  ok_present : s.csumOk = true → s.csumPresent = true
  /-- A checksum that matches is one whose two bytes in CSUM are equal (R33, R171). -/
  ok_equal : s.csumOk = true → s.calcByte = s.recvByte
  /-- TX_LEN is 0 or 5–260 (R27). -/
  tx_len : s.txLen.toNat = 0 ∨ (5 ≤ s.txLen.toNat ∧ s.txLen.toNat ≤ 260)
  /-- RX_LEN is 0–260 (R28). -/
  rx_len : s.rxLen.toNat ≤ 260
  /-- RES_INFO's reserved bits read 0 (R29, R38). -/
  res_info_reserved : s.resInfo &&& 0xFFF80000#32 = 0#32
  /-- TAG codes 6–7 are never produced (R30, 93 U7). -/
  tag_code : s.tag.toNat ≤ 5
  /-- RES_VAL holds a value only under a float tag (R31). -/
  value_tag : s.resVal = 0#32 ∨ (1 ≤ s.tag.toNat ∧ s.tag.toNat ≤ 3)
  /-- DISP_LEN counts bytes only under BYTESTRING, at most the declared length, so at most 255 (R32). -/
  disp_len : s.dispLen.toNat = 0 ∨ (s.tag = 4#3 ∧ s.dispLen.toNat ≤ s.rlen.toNat)
  /-- The displayed bytes are printable (R144). -/
  disp_printable : ∀ c ∈ s.mem, 0xC00 ≤ c.1 → c.1 < 0xC00 + s.dispLen.toNat → printable c.2 = true
  /-- Every other byte of DISP_BUF that was written since reset is 0 (R36, R132). -/
  disp_zero : ∀ c ∈ s.mem, 0xC00 + s.dispLen.toNat ≤ c.1 → c.2 = 0#8
  /-- CSUM's reserved bits read 0 (R33, R38). -/
  csum_reserved : s.csum &&& 0xFFFF0000#32 = 0#32

/-- No access was answered with a bus error (95_test_vectors P5: "A claim of no fault"). -/
def State.faultFree (s : State) : Prop := s.faultLog = []

/-! ### The buffer bytes a command reads (R42) -/

/-- The location was written since reset. -/
def State.written (s : State) (a : Nat) : Prop := s.mem.get? a ≠ none

/-- Every payload byte that ENCODE reads was written since reset (40_encode R100). -/
def State.payloadWritten (s : State) : Prop := ∀ i, i < s.encPlen.toNat → s.written (0x404 + i)

/-- Every byte of the received buffer, RX[0 .. RX_LEN-1], was written since reset (41_decode R130, 42_verify R171). -/
def State.receivedWritten (s : State) : Prop := ∀ i, i < s.rxLen.toNat → s.written (0x800 + i)

/-! ### What a command leaves alone (R41) -/

/-- Every location outside `n` bytes from `a` reads as before. -/
def sameBytesOutside (a n : Nat) (s t : State) : Prop := ∀ b, b < a ∨ a + n ≤ b → t.readByte b = s.readByte b

/-- DECODE's row of the write matrix (R41): CTRL, STATUS, RES_INFO, RES_VAL, DISP_LEN, CSUM and DISP_BUF, and nothing else. -/
def onlyDecodeOutputsChange (s t : State) : Prop :=
  t = { s with
    ctrl := t.ctrl, status := t.status, csum := t.csum, resInfo := t.resInfo, resVal := t.resVal, dispLen := t.dispLen,
    mem := t.mem } ∧
  sameBytesOutside 0xC00 256 s t

/-- What DECODE and VERIFY report of the checksum (42_verify R171, R173, 41_decode R131), about the frame in RX_BUF of `s`: with
no checksum byte inside the buffer, nothing present and CSUM 0; else the sum of register, length and payload in 8-bit wraparound
arithmetic against the byte at offset 4 + RX[3] (R172). -/
def checksumReported (s t : State) : Prop :=
  let n := s.rxLen.toNat
  let dlen := (s.rx 3).toNat
  let computed := frameChecksum (s.rx 2) (s.rx 3) (s.rxBytes 4 dlen)
  let received := s.rx (4 + dlen)
  (n < 4 ∨ n < 5 + dlen → t.csumOk = false ∧ t.csumPresent = false ∧ t.csum = 0#32) ∧
  (4 ≤ n ∧ 5 + dlen ≤ n → t.csumOk = decide (computed = received) ∧ t.csumPresent = true ∧
    t.csum = received.setWidth 32 <<< 8 ||| computed.setWidth 32)

/-- DISP_BUF holds these bytes and then zeros (R36, R144). -/
def displays (bs : List Byte) (t : State) : Prop := ∀ i, i < 256 → t.disp i = bs.getD i 0#8

/-- RES_INFO with this tag code, declared length and register (R29). -/
def infoWord (tag : BitVec 3) (rlen rreg : Byte) : Word := (0#13 ++ tag) ++ (rlen ++ rreg)

/-- The whole outcome of a DECODE with selector `sel` from `s` to `t` (41_decode R130): CTRL, ERR, LAST_OP, the checksum report,
RES_INFO, RES_VAL, DISP_LEN and DISP_BUF, and nothing else changed. -/
def decodeOutcome (sel : BitVec 2) (err : BitVec 4) (info value : Word) (shown : List Byte) (s t : State) : Prop :=
  t.ctrl = sel.setWidth 32 <<< 4 ||| 2#32 ∧ t.err = err ∧ t.lastOp = 2#3 ∧ checksumReported s t ∧
  t.resInfo = info ∧ t.resVal = value ∧ t.dispLen.toNat = shown.length ∧ displays shown t ∧ onlyDecodeOutputsChange s t

/-- ENCODE's outputs and a helper's ENC_HDR and payload (R41, 40_encode R105, R110–R116): only these registers change, and the
bytes of TX_BUF that the frame takes. -/
def onlyFrameBuilt (n : Nat) (s t : State) : Prop :=
  t = { s with
    ctrl := 0x00000001#32, status := 0x00000100#32, encHdr := t.encHdr, txLen := BitVec.ofNat 32 n, csum := t.csum,
    response := .done, mem := t.mem } ∧
  sameBytesOutside 0x400 n s t

/-- What a received frame and its DECODE may change: RX_BUF, RX_LEN, and DECODE's outputs (60_exceptions R216, R41). -/
def onlyReceiveAndDecodeOutputsChange (n : Nat) (s t : State) : Prop :=
  t = { s with
    ctrl := t.ctrl, status := t.status, csum := t.csum, resInfo := t.resInfo, resVal := t.resVal, dispLen := t.dispLen,
    rxLen := BitVec.ofNat 32 n, response := .done, mem := t.mem } ∧
  ∀ b, b < 0x800 ∨ (0x800 + n ≤ b ∧ b < 0xC00) ∨ 0xD00 ≤ b → t.readByte b = s.readByte b

/-- The whole outcome of a received frame `bytes` and its DECODE with selector `sel` (60_exceptions R216, 41_decode R130): the
frame stands in RX_BUF, RX_LEN is its length, and CTRL, ERR, LAST_OP, the checksum report and the result are these. -/
def responseOutcome (bytes : List Byte) (sel : BitVec 2) (err : BitVec 4) (info value : Word) (shown : List Byte)
    (s t : State) : Prop :=
  t.rxBytes 0 bytes.length = bytes ∧ t.rxLen.toNat = bytes.length ∧
  t.ctrl = sel.setWidth 32 <<< 4 ||| 2#32 ∧ t.err = err ∧ t.lastOp = 2#3 ∧ checksumReported t t ∧
  t.resInfo = info ∧ t.resVal = value ∧ t.dispLen.toNat = shown.length ∧ displays shown t ∧
  onlyReceiveAndDecodeOutputsChange bytes.length s t

/-- An access answered by BusError(off) in state `s` (60_exceptions R206): the fault where the host stops, else a next state that
differs only in the error response and the recorded fault. -/
def answersBusError (off : Offset) (s : State) (o : Host.Outcome State Fault Refusal) : Prop :=
  (s.hostReaction = .stop → o = .fault (.busError off)) ∧
  (s.hostReaction = .carryOn → o = .next { s with response := .error off, faultLog := s.faultLog ++ [off] })

/-- The offsets that nothing maps (20_memory R56). -/
def unmappedOffset (a : Nat) : Prop :=
  (0x024 ≤ a ∧ a ≤ 0x3FF) ∨ (0x504 ≤ a ∧ a ≤ 0x7FF) ∨ (0x904 ≤ a ∧ a ≤ 0xBFF) ∨ (0xD00 ≤ a ∧ a ≤ 0xFFF)

/-- The offsets of the read-only locations STATUS, TX_LEN, RES_INFO, RES_VAL, DISP_LEN, CSUM and DISP_BUF (20_memory R57). -/
def readOnlyOffset (a : Nat) : Prop :=
  (0x004 ≤ a ∧ a ≤ 0x007) ∨ (0x00C ≤ a ∧ a ≤ 0x00F) ∨ (0x014 ≤ a ∧ a ≤ 0x023) ∨ (0xC00 ≤ a ∧ a ≤ 0xCFF)

/-- An access that the map does not allow (20_memory R52, R53, R56, R57, R58). -/
def disallowed : Access → Prop
  | .load n off => off.toNat % n.bytes ≠ 0 ∨ (off.toNat ≤ 0x023 ∧ n ≠ .word) ∨ unmappedOffset off.toNat
  | .store n off v => off.toNat % n.bytes ≠ 0 ∨ (off.toNat ≤ 0x023 ∧ n ≠ .word) ∨ unmappedOffset off.toNat ∨
      readOnlyOffset off.toNat ∨ (n = .word ∧ off = 0x010#12 ∧ 260 < v.toNat)

/-- The offset of an access. -/
def accessOffset : Access → Offset
  | .load _ off => off
  | .store _ off _ => off

/-- The three decode commands and their selectors (30_encoding R85). -/
def decodeRows : List (Instr × BitVec 2) := [(.decodeV, 0#2), (.decodeI, 1#2), (.decodeP, 2#2)]

/-! ### Runs of accesses -/

/-- The accesses of a host program one after another, up to the first that stops the host (20_memory R63). -/
def hostAccesses : List Access → State → Host.Outcome State Fault Refusal
  | [], s => .next s
  | a :: rest, s =>
    match hostAccess a s with
    | .next t => hostAccesses rest t
    | .fault r => .fault r
    | .refused r => .refused r

/-- `k` steps of the machine, up to the first fault or refusal. -/
def steps : Nat → State → Host.Outcome State Fault Refusal
  | 0, s => .next s
  | k + 1, s =>
    match step s with
    | .next t => steps k t
    | .fault r => .fault r
    | .refused r => .refused r

/-- The instruction completes from `s` in `u`: exec answers a next state in which `n` more accesses of its expansion are
pending, and the next `n` steps, one for each of them (10_state R43; log 6), end in `u`. -/
def completesIn (n : Nat) (i : Instr) (s u : State) : Prop :=
  ∃ t, exec i s = .next t ∧ t.hostQueue.length = s.hostQueue.length + n ∧ steps n t = .next u

/-! ### The single accesses behind a frame row -/

/-- `st.b base+i, b_i` as host operations (R90). -/
def byteStoreOps (base : Nat) (bs : List Byte) : List HostOp := (byteStores base bs).map .access

/-- A word store as a host operation (R90). -/
def wordStoreOp (off : Offset) (v : Word) : HostOp := .access (.store .word off v)

/-- The host's accesses that a frame row stands for, one operation each: for a row that the host builds, the expansion of its
helper (40_encode R110–R116); for a row that the decoder recognises, RECV and then DECODE with the selector in CTRL (log 7).
A command row is one access already. -/
def expansion (i : Instr) (sel : BitVec 2) : List HostOp :=
  let built (stores : List HostOp) (header : Word) : List HostOp :=
    stores ++ [wordStoreOp 0x008#12 header, wordStoreOp 0x000#12 0x1#32]
  let received : List HostOp :=
    byteStoreOps 0x800 (encode i) ++
      [wordStoreOp 0x010#12 (BitVec.ofNat 32 (encode i).length), wordStoreOp 0x000#12 (commandWord 2#3 sel)]
  match i with
  | .nop _ | .encode _ | .decodeV | .decodeI | .decodeP | .decodeIllegalSel | .verify _ | .reservedOp _ _ => []
  | .encFrame dir cmd reg payload =>
      built (byteStoreOps 0x404 payload) (le32 dir cmd reg (BitVec.ofNat 8 payload.length))
  | .qGet reg => built [] (le32 0xF1#8 0xA1#8 reg 0x00#8)
  | .sFloat reg bits => built [wordStoreOp 0x404#12 bits] (le32 0xF1#8 0xB1#8 reg 0x04#8)
  | .sByte reg value => built (byteStoreOps 0x404 [value]) (le32 0xF1#8 0xB1#8 reg 0x01#8)
  | .hConnect hh payload => built (byteStoreOps 0x404 [payload]) (le32 0xF1#8 0xC1#8 hh 0x01#8)
  | .hBaud hh index => built (byteStoreOps 0x404 [index]) (le32 0xF1#8 0xB0#8 hh 0x01#8)
  | .hDisconnect hh => built [] (le32 0xF1#8 0xC1#8 hh 0x00#8)
  | .respSetv _ _ | .respSeti _ _ | .respTelem _ _ | .respModel _ _ | .respHwver _ _ | .respFwver _ _ => received
  | .respOther _ _ _ => received

/-- The accesses of an instruction that are pending once exec has performed the first; none for a command row. -/
def accessesLeft (i : Instr) : Nat := (expansion i 0#2).length - 1

/-! ### The host's session frames -/

/-- Session bring-up (70_reset R234): the two handshake frames, each sent and followed by the settle delay. -/
def sessionBringUp : List HostOp :=
  [ .frame (encode (.hConnect Config.handshakeReg 0x01#8)), .send [], .wait,
    .frame (encode (.hBaud Config.handshakeReg Config.baudIndex115200)), .send [], .wait ]

/-- Session tear-down (70_reset R235): the optional disconnect frame. -/
def sessionTearDown : List HostOp := [.frame (encode (.hDisconnect Config.handshakeReg)), .send []]

end Sys2Proof.Machine
end

