-- ==== Sys2Proof/Certificates/Slice0/Obligations.lean ====
section
/-!
DEFINITION. The statements for the provers, each read from the rules of spec/ that its docstring names.
-/

section

open Sys2Proof Sys2Proof.Machine

/-- Words and frames written out from the spec decode to the instructions they stand for (30_encoding R83, R84, R89, R90, R91; 95_test_vectors BV5, EV1, EV4, EV11, DV16; notes/assumptions/8.md). -/
def Obligations.SampleWordsDecodeAsTheSpecWritesThem : Prop :=
  decode .ctrl [0x03#8, 0x00#8, 0x00#8, 0x00#8] = .instr (.verify 0#2) [] ∧
  decode .ctrl [0xC9#8, 0xFF#8, 0xFF#8, 0xFF#8] = .instr (.encode 0#2) [] ∧
  decode .ctrl [0x22#8, 0x00#8, 0x00#8, 0x00#8] = .instr .decodeP [] ∧
  decode .ctrl [0x35#8, 0x00#8, 0x00#8, 0x00#8] = .instr (.reservedOp 5#3 3#2) [] ∧
  decode .frame [0xF1#8, 0xA1#8, 0xDE#8, 0x00#8, 0xDE#8] = .instr (.qGet 0xDE#8) [] ∧
  decode .frame [0xF1#8, 0xB1#8, 0xC1#8, 0x04#8, 0x00#8, 0x00#8, 0x40#8, 0x41#8, 0x46#8] =
    .instr (.sFloat 0xC1#8 0x41400000#32) [] ∧
  decode .frame [0xF1#8, 0xC1#8, 0x00#8, 0x01#8, 0x01#8, 0x02#8] = .instr (.hConnect 0x00#8 0x01#8) [] ∧
  decode .frame [0xF0#8, 0xA1#8, 0xDE#8, 0x02#8, 0x7E#8, 0x7F#8, 0xDD#8] =
    .instr (.respModel 0x02#8 [0x7E#8, 0x7F#8, 0xDD#8]) []

/-- Decode and encode agree on every well-formed instruction (30_encoding R70, R83, R84, R89, R91; notes/assumptions/8.md). -/
def Obligations.EveryWellFormedInstructionDecodesFromItsEncoding : Prop :=
  ∀ i : Instr, i.wellFormed = true → decode i.source (encode i) = .instr i []

/-- Encoding a decoded command word gives back the word with its ignored bits cleared (30_encoding R83, R84, R86; 10_state R25). -/
def Obligations.CommandWordsKeepOnlyOpAndSel : Prop :=
  ∀ w : Word, encode (decodeCommandWord w) = wordBytes (w &&& 0x00000037#32)

/-- The decoder's choice of a FRAME row is the first row of the table, most specific mask first, that matches HDR32 (30_encoding R89, R91). -/
def Obligations.FrameRowsFollowTheTablesMasks : Prop :=
  ∀ f0 f1 f2 f3 : Byte, frameKind f0 f1 f2 f3 = classifyByTable (hdr32 f0 f1 f2 f3)

/-- A step runs the instruction that the host's oldest operation presents (10_state R43; 20_memory R63; notes/assumptions/1.md). -/
def Obligations.StepRunsTheDecodedInstruction : Prop :=
  ∀ (s : State) (op : HostOp) (rest : List HostOp) (src : Source) (bytes after : List Byte) (i : Instr),
    s.hostQueue = op :: rest → fetchBytes op = some (src, bytes) → decode src bytes = .instr i after →
      step s = exec i { s with hostQueue := rest, response := .done }

/-- A word write to CTRL keeps OP and SEL, performs the command and completes; CTRL reads back w & 0x37 (R177). -/
def Obligations.CtrlWritePerformsItsCommand : Prop :=
  (∀ (s : State) (w : Word) (rest : List HostOp), s.hostQueue = .access (.store .word 0x000#12 w) :: rest →
    step s = exec (decodeCommandWord w) { s with hostQueue := rest, response := .done } ∧
    ∃ t, step s = .next t ∧ t.ctrl = w &&& 0x00000037#32 ∧ t.response = .done ∧ t.hostQueue = rest ∧
      t.lastOp = w.extractLsb' 0 3 ∧
      hostAccess (.load .word 0x000#12) t = .next { t with response := .data (w &&& 0x00000037#32) }) ∧
  (∀ s : State, s.resetFcodec.ctrl = 0#32) ∧ State.reset.ctrl = 0#32

/-- A step on an access that is no word write to CTRL performs that access (20_memory R51, R63). -/
def Obligations.OtherAccessesAreServedByTheBus : Prop :=
  ∀ (s : State) (a : Access) (rest : List HostOp), s.hostQueue = .access a :: rest →
    (∀ v : Word, a ≠ .store .word 0x000#12 v) → step s = hostAccess a { s with hostQueue := rest }

/-- With no host operation pending, and during WAIT, FCODEC keeps its state (70_reset R232; 10_state R39; notes/assumptions/2.md). -/
def Obligations.NothingRunsUntilTheHostActs : Prop :=
  ∀ s : State, (s.hostQueue = [] → step s = .next s) ∧
    (∀ rest, s.hostQueue = .wait :: rest → step s = .next { s with hostQueue := rest })

/-- SEND after ENCODE hands the transport the wire frame, bytes in offset order, and changes nothing in FCODEC (20_memory R61, R69; 40_encode R106; 10_state R43; notes/assumptions/11.md). -/
def Obligations.SendHandsOverTheEncodedFrameInOffsetOrder : Prop :=
  ∀ (s : State) (sel : BitVec 2) (rest : List HostOp), ∃ t u, exec (.encode sel) s = .next t ∧
    steps (s.encPlen.toNat + 6) { t with hostQueue := .send [] :: rest } = .next u ∧
    u = { t with
      hostQueue := rest
      response := u.response
      wire := s.wire ++ [frameBytes s.encDir s.encCmd s.encReg (s.txBytes 4 s.encPlen.toNat)] }

/-- SEND from any state hands over TX[0 .. TX_LEN-1] as it stands, one byte read a step (20_memory R61, R69; 70_reset R239; 10_state R27, R43; notes/assumptions/11.md). -/
def Obligations.SendHandsOverTxBufAsItStands : Prop :=
  ∀ (s : State) (rest : List HostOp), s.hostQueue = .send [] :: rest → s.txLen.toNat ≤ 260 →
    let n := s.txLen.toNat
    (∀ k, k ≤ n → ∃ v, steps k s = .next v ∧ v.wire = s.wire) ∧
    steps (n + 1) s = .next { s with
      hostQueue := rest
      response := if n = 0 then s.response else .data ((s.tx (n - 1)).setWidth 32)
      wire := s.wire ++ [s.txBytes 0 n] }

/-- RECV stores the received bytes from RX[0] in arrival order, one a step, and then sets RX_LEN (30_encoding R90; 20_memory R58, R69; 60_exceptions R216; 10_state R43; notes/assumptions/1.md). -/
def Obligations.ReceiveFillsRxBufThenRxLen : Prop :=
  ∀ (s : State) (bytes : List Byte) (rest : List HostOp), s.hostQueue = .receive bytes :: rest →
    bytes.length ≤ 260 →
    (∀ k, k ≤ bytes.length → ∃ v, steps k s = .next v ∧ v.rxBytes 0 k = bytes.take k ∧ v.rxLen = s.rxLen) ∧
    ∃ t, steps (bytes.length + 1) s = .next t ∧ t.rxBytes 0 bytes.length = bytes ∧
      t = { s with
        hostQueue := rest, rxLen := BitVec.ofNat 32 bytes.length, response := .done, mem := t.mem } ∧
      sameBytesOutside 0x800 bytes.length s t

/-- RECV of more than 260 bytes fills RX_BUF, then every further store and the RX_LEN write is a BusError (30_encoding R90; 20_memory R56, R57, R58, R60; 60_exceptions R206; 10_state R43; notes/assumptions/1.md; notes/assumptions/5.md; notes/assumptions/15.md). -/
def Obligations.ReceiveOfTooManyBytesIsABusError : Prop :=
  ∀ (s : State) (bytes : List Byte) (rest : List HostOp), s.hostQueue = .receive bytes :: rest →
    260 < bytes.length → bytes.length ≤ 2048 →
    (s.hostReaction = .stop → ∃ v, steps 260 s = .next v ∧ v.rxBytes 0 260 = bytes.take 260 ∧
      v = { s with hostQueue := v.hostQueue, response := .done, mem := v.mem } ∧ sameBytesOutside 0x800 260 s v ∧
      step v = .fault (.busError 0x904#12)) ∧
    (s.hostReaction = .carryOn → ∃ t, steps (bytes.length + 1) s = .next t ∧ t.rxBytes 0 260 = bytes.take 260 ∧
      t = { s with
        hostQueue := rest
        response := .error 0x010#12
        faultLog := s.faultLog ++ ((List.range (bytes.length - 260)).map fun k => BitVec.ofNat 12 (0x904 + k)) ++ [0x010#12]
        mem := t.mem } ∧
      sameBytesOutside 0x800 260 s t)

/-- A reset, or a power event treated as one, sets every register to its reset value and leaves every buffer byte unspecified (10_state R40, R42; 70_reset R230; 60_exceptions R218; notes/assumptions/3.md; notes/assumptions/12.md). -/
def Obligations.ResetRestoresEveryRegister : Prop :=
  ∀ (s : State) (op : HostOp) (rest : List HostOp), s.hostQueue = op :: rest → (op = .reset ∨ op = .powerEvent) →
    ∃ t, step s = .next t ∧
      t = { s with
        ctrl := 0#32, status := 0#32, encHdr := 0#32, txLen := 0#32, rxLen := 0#32, resInfo := 0#32, resVal := 0#32,
        dispLen := 0#32, csum := 0#32, mem := [], drawEpoch := s.drawEpoch + 1, hostQueue := rest } ∧
      ∀ a, t.readByte a = Config.unwrittenByte (s.drawEpoch + 1) a

/-- An access concurrent with reset and an access by a second host agent are refused by name (70_reset R230; 60_exceptions R215; 93_implementation_defined U8, U9). -/
def Obligations.ConcurrentResetAndSecondAgentAreRefused : Prop :=
  ∀ (s : State) (a : Access) (rest : List HostOp),
    (s.hostQueue = .accessDuringReset a :: rest → step s = .refused .accessDuringReset) ∧
    (s.hostQueue = .secondAgent a :: rest → step s = .refused .secondAgent)

/-- Right after reset DECODE reports NOT_A_RESPONSE and VERIFY finds no checksum byte (70_reset R231). -/
def Obligations.AfterResetNothingIsReceived : Prop :=
  ∀ (s : State) (i : Instr) (sel : BitVec 2), (i, sel) ∈ decodeRows →
    (∃ t, exec i s.resetFcodec = .next t ∧ t.status = 0x00000201#32 ∧
      decodeOutcome sel 1#4 0#32 0#32 [] s.resetFcodec t) ∧
    exec (.verify sel) s.resetFcodec =
      .next { s.resetFcodec with ctrl := sel.setWidth 32 <<< 4 ||| 3#32, status := 0x00000300#32 }

/-- NOP clears STATUS and changes nothing else but CTRL (R175). -/
def Obligations.NopClearsStatus : Prop :=
  ∀ (sel : BitVec 2) (s : State),
    exec (.nop sel) s = .next { s with ctrl := sel.setWidth 32 <<< 4, status := 0#32 }

/-- A reserved OP performs no command and reports ILLEGAL_CMD with LAST_OP = OP (R176). -/
def Obligations.ReservedOpReportsIllegalCommand : Prop :=
  ∀ (op : BitVec 3) (sel : BitVec 2) (s : State), 4 ≤ op.toNat →
    exec (.reservedOp op sel) s = .next { s with
      ctrl := sel.setWidth 32 <<< 4 ||| op.setWidth 32, status := op.setWidth 32 <<< 8 ||| 3#32 }

/-- DECODE with SEL = 3 performs no decode and reports ILLEGAL_CMD (R151). -/
def Obligations.IllegalSelectorPerformsNoDecode : Prop :=
  ∀ s : State, exec .decodeIllegalSel s = .next { s with ctrl := 0x00000032#32, status := 0x00000203#32 }

/-- VERIFY compares the frame's checksum byte at 4 + RX[3] with the sum, and reports a short buffer as not present (R170; R172; R173). -/
def Obligations.VerifyComputesTheFrameChecksum : Prop :=
  ∀ (sel : BitVec 2) (s : State),
    let n := s.rxLen.toNat
    let dlen := (s.rx 3).toNat
    let computed := frameChecksum (s.rx 2) (s.rx 3) (s.rxBytes 4 dlen)
    let received := s.rx (4 + dlen)
    let ctrl := sel.setWidth 32 <<< 4 ||| 3#32
    (n < 4 ∨ n < 5 + dlen → exec (.verify sel) s = .next { s with ctrl := ctrl, csum := 0#32, status := 0x00000300#32 }) ∧
    (4 ≤ n ∧ 5 + dlen ≤ n → exec (.verify sel) s = .next { s with
      ctrl := ctrl
      csum := received.setWidth 32 <<< 8 ||| computed.setWidth 32
      status := if computed = received then 0x00000330#32 else 0x00000320#32 })

/-- ENCODE writes the header, the checksum, TX_LEN, CSUM and STATUS, and nothing else (R100; R105). -/
def Obligations.EncodeBuildsTheFrameInPlace : Prop :=
  ∀ (sel : BitVec 2) (s : State),
    let n := s.encPlen.toNat
    let sum := BitVec.ofNat 8 (s.encReg.toNat + n + ((s.txBytes 4 n).map BitVec.toNat).sum)
    ∃ t, exec (.encode sel) s = .next t ∧
      t.tx 0 = s.encHdr.extractLsb' 0 8 ∧ t.tx 1 = s.encHdr.extractLsb' 8 8 ∧ t.tx 2 = s.encHdr.extractLsb' 16 8 ∧
      t.tx 3 = s.encHdr.extractLsb' 24 8 ∧ t.tx (4 + n) = sum ∧
      (∀ a, ¬ (0x400 ≤ a ∧ a < 0x404) → a ≠ 0x404 + n → t.readByte a = s.readByte a) ∧
      t = { s with
        ctrl := sel.setWidth 32 <<< 4 ||| 1#32, status := 0x00000100#32, txLen := BitVec.ofNat 32 (n + 5),
        csum := sum.setWidth 32, mem := t.mem }

/-- The machine's ENCODE refines the wire format: TX[0 .. TX_LEN-1] is the frame of the encoder's inputs (40_encode R100, R104; 30_encoding R70, R71, R76). -/
def Obligations.EncodedFrameIsTheWireFrame : Prop :=
  ∀ (sel : BitVec 2) (s : State), ∃ t, exec (.encode sel) s = .next t ∧
    t.txLen.toNat = s.encPlen.toNat + 5 ∧
    t.txBytes 0 t.txLen.toNat = frameBytes s.encDir s.encCmd s.encReg (s.txBytes 4 s.encPlen.toNat)

/-- The exact sum reduced modulo 256 equals the sum reduced after every addition, and fits in 16 bits (40_encode R104). -/
def Obligations.ChecksumSumsModulo256 : Prop :=
  ∀ (reg len : Byte) (payload : List Byte), checksumOf reg len payload = frameChecksum reg len payload ∧
    (payload.length ≤ 255 → reg.toNat + len.toNat + byteSum payload ≤ 65535)

/-- Permuting the payload bytes changes neither VERIFY's report nor ENCODE's checksum (42_verify R178). -/
def Obligations.ChecksumIgnoresPayloadOrder : Prop :=
  ∀ (sel : BitVec 2) (s u : State),
    (u.rxLen = s.rxLen → u.rx 2 = s.rx 2 → u.rx 3 = s.rx 3 →
      (u.rxBytes 4 (s.rx 3).toNat).Perm (s.rxBytes 4 (s.rx 3).toNat) →
      u.rx (4 + (s.rx 3).toNat) = s.rx (4 + (s.rx 3).toNat) →
        ∃ t v, exec (.verify sel) s = .next t ∧ exec (.verify sel) u = .next v ∧ v.csum = t.csum ∧ v.status = t.status) ∧
    (u.encHdr = s.encHdr → (u.txBytes 4 s.encPlen.toNat).Perm (s.txBytes 4 s.encPlen.toNat) →
        ∃ t v, exec (.encode sel) s = .next t ∧ exec (.encode sel) u = .next v ∧ v.csum = t.csum)

/-- DECODE of a buffer that fails the gate reports NOT_A_RESPONSE with a cleared result and the checksum flag written (R134). -/
def Obligations.DecodeReportsNotAResponse : Prop :=
  ∀ (i : Instr) (sel : BitVec 2) (s : State), (i, sel) ∈ decodeRows →
    ¬ (6 < s.rxLen.toNat ∧ s.rx 0 = 0xF0#8 ∧ s.rx 1 = 0xA1#8) →
      ∃ t, exec i s = .next t ∧ decodeOutcome sel 1#4 0#32 0#32 [] s t

/-- DECODE of register 0xC1 gives VOLTAGE and of 0xC2 CURRENT, with RES_VAL = le32(RX[4..7]) (R141). -/
def Obligations.DecodeExtractsTheEchoedFloat : Prop :=
  ∀ (i : Instr) (sel : BitVec 2) (reg : Byte) (tag : BitVec 3) (s : State), (i, sel) ∈ decodeRows →
    (reg, tag) ∈ [(0xC1#8, 1#3), (0xC2#8, 2#3)] →
    6 < s.rxLen.toNat → s.rx 0 = 0xF0#8 → s.rx 1 = 0xA1#8 → s.rx 2 = reg →
    4 ≤ (s.rx 3).toNat → 4 + (s.rx 3).toNat ≤ s.rxLen.toNat →
      ∃ t, exec i s = .next t ∧
        decodeOutcome sel 0#4 (infoWord tag (s.rx 3) reg) (le32 (s.rx 4) (s.rx 5) (s.rx 6) (s.rx 7)) [] s t

/-- DECODE of register 0xC3 gives the float at 4 + 4*SEL and the tag 1 + SEL (R142). -/
def Obligations.DecodeSelectsOneOfThreeTelemetryFloats : Prop :=
  ∀ (i : Instr) (sel : BitVec 2) (s : State), (i, sel) ∈ decodeRows →
    6 < s.rxLen.toNat → s.rx 0 = 0xF0#8 → s.rx 1 = 0xA1#8 → s.rx 2 = 0xC3#8 →
    12 ≤ (s.rx 3).toNat → 4 + (s.rx 3).toNat ≤ s.rxLen.toNat →
      let o := 4 + 4 * sel.toNat
      ∃ t, exec i s = .next t ∧
        decodeOutcome sel 0#4 (infoWord (1#3 + sel.setWidth 3) (s.rx 3) 0xC3#8)
          (le32 (s.rx o) (s.rx (o + 1)) (s.rx (o + 2)) (s.rx (o + 3))) [] s t

/-- DECODE of an identity register gives BYTESTRING and copies exactly the payload bytes 0x20-0x7E, in order (R143; R144). -/
def Obligations.DecodeKeepsThePrintableBytesOfAString : Prop :=
  ∀ (i : Instr) (sel : BitVec 2) (reg : Byte) (s : State), (i, sel) ∈ decodeRows →
    reg ∈ [0xDE#8, 0xDF#8, 0xE0#8] →
    6 < s.rxLen.toNat → s.rx 0 = 0xF0#8 → s.rx 1 = 0xA1#8 → s.rx 2 = reg →
    4 + (s.rx 3).toNat ≤ s.rxLen.toNat →
      ∃ t, exec i s = .next t ∧
        decodeOutcome sel 0#4 (infoWord 4#3 (s.rx 3) reg) 0#32
          ((s.rxBytes 4 (s.rx 3).toNat).filter fun b => decide (0x20 ≤ b.toNat ∧ b.toNat ≤ 0x7E)) s t

/-- DECODE of a register outside the table gives UNKNOWN with ERR = OK, whatever the declared length (R145). -/
def Obligations.DecodeLeavesOtherRegistersUnknown : Prop :=
  ∀ (i : Instr) (sel : BitVec 2) (s : State), (i, sel) ∈ decodeRows →
    6 < s.rxLen.toNat → s.rx 0 = 0xF0#8 → s.rx 1 = 0xA1#8 →
    s.rx 2 ∉ [0xC1#8, 0xC2#8, 0xC3#8, 0xDE#8, 0xDF#8, 0xE0#8] →
      ∃ t, exec i s = .next t ∧ decodeOutcome sel 0#4 (infoWord 5#3 (s.rx 3) (s.rx 2)) 0#32 [] s t

/-- DECODE is TRUNCATED where the payload passes RX_LEN or is shorter than the shape, and not where only the checksum byte is missing (R137; R138). -/
def Obligations.DecodeReportsTruncatedFrames : Prop :=
  ∀ (i : Instr) (sel : BitVec 2) (reg : Byte) (fixedLen : Nat) (s : State), (i, sel) ∈ decodeRows →
    (reg, fixedLen) ∈ [(0xC1#8, 4), (0xC2#8, 4), (0xC3#8, 12), (0xDE#8, 0), (0xDF#8, 0), (0xE0#8, 0)] →
    6 < s.rxLen.toNat → s.rx 0 = 0xF0#8 → s.rx 1 = 0xA1#8 → s.rx 2 = reg →
      ((s.rxLen.toNat < 4 + (s.rx 3).toNat ∨ (s.rx 3).toNat < fixedLen) →
        ∃ t, exec i s = .next t ∧ decodeOutcome sel 2#4 (infoWord 0#3 (s.rx 3) reg) 0#32 [] s t) ∧
      (fixedLen ≤ (s.rx 3).toNat → s.rxLen.toNat = 4 + (s.rx 3).toNat →
        ∃ t, exec i s = .next t ∧ t.err = 0#4 ∧ t.csumPresent = false ∧ t.tag ≠ 0#3)

/-- DECODE writes the same CSUM, CSUM_OK and CSUM_PRESENT as VERIFY, whatever the validation result (41_decode R131; 42_verify R171, R180). -/
def Obligations.DecodeAndVerifyReportTheSameChecksum : Prop :=
  ∀ (i : Instr) (sel k : BitVec 2) (s : State), (i, sel) ∈ decodeRows →
    ∃ t v, exec i s = .next t ∧ exec (.verify k) s = .next v ∧
      t.csum = v.csum ∧ t.csumOk = v.csumOk ∧ t.csumPresent = v.csumPresent

/-- Overwriting the checksum byte changes DECODE's checksum report and nothing else that DECODE produces (41_decode R131, R150; 90_conflicts C1, C7). -/
def Obligations.BadChecksumChangesOnlyTheFlag : Prop :=
  ∀ (i : Instr) (sel : BitVec 2) (s : State) (b : Byte), (i, sel) ∈ decodeRows →
    let u := s.writeBytes (0x804 + (s.rx 3).toNat) [b]
    ∃ t v, exec i s = .next t ∧ exec i u = .next v ∧
      v = { t with status := v.status, csum := v.csum, mem := v.mem } ∧
      v.err = t.err ∧ v.lastOp = t.lastOp ∧ v.csumPresent = t.csumPresent ∧ v.calcByte = t.calcByte ∧
      ∀ k, k < 256 → v.disp k = t.disp k

/-- For every register but 0xC3, DECODE.V, DECODE.I and DECODE.P give the same state but for CTRL.SEL (R146). -/
def Obligations.SelectorMattersOnlyForTelemetry : Prop :=
  ∀ s : State, s.rx 2 ≠ 0xC3#8 → ∃ t, exec .decodeV s = .next t ∧
    exec .decodeI s = .next { t with ctrl := 0x00000012#32 } ∧
    exec .decodeP s = .next { t with ctrl := 0x00000022#32 }

/-- DECODE and VERIFY depend on no byte beyond RX_LEN, none beyond the frame's checksum byte, and no other register (41_decode R147, R149; 42_verify R171; 00_scope R17). -/
def Obligations.DecodeAndVerifyReadOnlyTheFrame : Prop :=
  ∀ (i : Instr) (sel k : BitVec 2) (s u : State), (i, sel) ∈ decodeRows → u.rxLen = s.rxLen →
    (∀ j, j < s.rxLen.toNat → j < 5 + (s.rx 3).toNat → u.rx j = s.rx j) →
      (∃ t v, exec i s = .next t ∧ exec i u = .next v ∧
        v.ctrl = t.ctrl ∧ v.status = t.status ∧ v.csum = t.csum ∧ v.resInfo = t.resInfo ∧ v.resVal = t.resVal ∧
        v.dispLen = t.dispLen ∧ ∀ j, j < 256 → v.disp j = t.disp j) ∧
      (∃ t v, exec (.verify k) s = .next t ∧ exec (.verify k) u = .next v ∧
        v.ctrl = t.ctrl ∧ v.status = t.status ∧ v.csum = t.csum)

/-- A frame encoded as a response, copied to RX_BUF and decoded gives back its register and payload (41_decode R160). -/
def Obligations.EncodeThenDecodeRoundTrip : Prop :=
  ∀ (i : Instr) (sel k : BitVec 2) (s : State), (i, sel) ∈ decodeRows →
    let n := s.encPlen.toNat
    let reg := s.encReg
    let payload := s.txBytes 4 n
    let float (o : Nat) : Word :=
      le32 (payload.getD o 0#8) (payload.getD (o + 1) 0#8) (payload.getD (o + 2) 0#8) (payload.getD (o + 3) 0#8)
    ∃ t, exec (.encode k) s = .next t ∧
      let u : State := { t.writeBytes 0x800 (t.txBytes 0 (n + 5)) with rxLen := BitVec.ofNat 32 (n + 5) }
      ∃ v, exec i u = .next v ∧
        (s.encDir = 0xF0#8 ∧ s.encCmd = 0xA1#8 ∧ 2 ≤ n →
          v.csumOk = true ∧ v.csumPresent = true ∧ v.rreg = reg ∧ v.rlen = s.encPlen ∧
          (reg ∈ [0xDE#8, 0xDF#8, 0xE0#8] → v.err = 0#4 ∧ v.tag = 4#3 ∧ v.rxBytes 4 n = payload) ∧
          (reg ∈ [0xC1#8, 0xC2#8] ∧ 4 ≤ n → v.err = 0#4 ∧ v.resVal = float 0) ∧
          (reg = 0xC3#8 ∧ 12 ≤ n → v.err = 0#4 ∧ v.resVal = float (4 * sel.toNat)) ∧
          ((reg ∈ [0xC1#8, 0xC2#8] ∧ n < 4) ∨ (reg = 0xC3#8 ∧ n < 12) → v.err = 2#4 ∧ v.tag = 0#3) ∧
          (reg ∉ [0xC1#8, 0xC2#8, 0xC3#8, 0xDE#8, 0xDF#8, 0xE0#8] → v.err = 0#4 ∧ v.tag = 5#3)) ∧
        (s.encDir ≠ 0xF0#8 ∨ s.encCmd ≠ 0xA1#8 ∨ n < 2 → v.err = 1#4)

/-- Repeating a command with unchanged inputs gives the same state (20_memory R59). -/
def Obligations.EveryCommandIsIdempotent : Prop :=
  ∀ (i : Instr) (s : State), i.source = .ctrl → ∃ t, exec i s = .next t ∧ exec i t = .next t

/-- No command writes ENC_HDR, RX_LEN or RX_BUF; TX only ENCODE, results and DISP only DECODE, CSUM only ENCODE, DECODE, VERIFY (10_state R35, R41; 70_reset R241; 40_encode R105). -/
def Obligations.CommandsFollowTheWriteMatrix : Prop :=
  ∀ (i : Instr) (s : State), i.source = .ctrl → ∃ t, exec i s = .next t ∧
    t.encHdr = s.encHdr ∧ t.rxLen = s.rxLen ∧ (∀ a, a < 0x400 ∨ 0x504 ≤ a ∧ a < 0xC00 → t.readByte a = s.readByte a) ∧
    t.drawEpoch = s.drawEpoch ∧ t.hostQueue = s.hostQueue ∧ t.response = s.response ∧
    t.hostReaction = s.hostReaction ∧ t.faultLog = s.faultLog ∧ t.wire = s.wire ∧
    ((∀ k, i ≠ .encode k) → t.txLen = s.txLen ∧ ∀ a, 0x400 ≤ a ∧ a < 0x504 → t.readByte a = s.readByte a) ∧
    (i ∉ [.decodeV, .decodeI, .decodeP] → t.resInfo = s.resInfo ∧ t.resVal = s.resVal ∧ t.dispLen = s.dispLen ∧
      ∀ a, 0xC00 ≤ a → t.readByte a = s.readByte a) ∧
    ((∀ k, i ≠ .encode k) → (∀ k, i ≠ .verify k) → i ∉ [.decodeV, .decodeI, .decodeP] → t.csum = s.csum)

/-- Once every buffer byte a command reads was written since reset, no draw of an unwritten byte reaches its result (10_state R42; 70_reset R233; notes/assumptions/3.md). -/
def Obligations.ResultsIgnoreDrawsOnceInputsAreWritten : Prop :=
  ∀ (i : Instr) (s : State) (epoch : Nat), i.source = .ctrl →
    ((∃ k, i = .encode k) → s.payloadWritten) →
    (i ∈ [.decodeV, .decodeI, .decodeP] ∨ (∃ k, i = .verify k) → s.receivedWritten) →
      ∃ t, exec i s = .next t ∧ exec i { s with drawEpoch := epoch } = .next { t with drawEpoch := epoch }

/-- ENC.QUERY r builds F1 A1 r 00 r with TX_LEN = 5 (40_encode R111; 10_state R43; notes/assumptions/6.md). -/
def Obligations.QueryBuildsItsFrame : Prop :=
  ∀ (reg : Byte) (s : State), ∃ t, completesIn 1 (.qGet reg) s t ∧
    t.txBytes 0 5 = [0xF1#8, 0xA1#8, reg, 0x00#8, reg] ∧ t.encHdr = 0x0000A1F1#32 ||| reg.setWidth 32 <<< 16 ∧
    t.csum = reg.setWidth 32 ∧ onlyFrameBuilt 5 s t

/-- ENC.SETF r, bits builds F1 B1 r 04 b0 b1 b2 b3 s with TX_LEN = 9 (40_encode R112; 10_state R43; notes/assumptions/6.md). -/
def Obligations.SetFloatBuildsItsFrame : Prop :=
  ∀ (reg : Byte) (bits : Word) (s : State),
    let b0 := bits.extractLsb' 0 8
    let b1 := bits.extractLsb' 8 8
    let b2 := bits.extractLsb' 16 8
    let b3 := bits.extractLsb' 24 8
    let sum := reg + 4#8 + b0 + b1 + b2 + b3
    ∃ t, completesIn 2 (.sFloat reg bits) s t ∧
      t.txBytes 0 9 = [0xF1#8, 0xB1#8, reg, 0x04#8, b0, b1, b2, b3, sum] ∧
      t.encHdr = 0x0400B1F1#32 ||| reg.setWidth 32 <<< 16 ∧ t.csum = sum.setWidth 32 ∧ onlyFrameBuilt 9 s t

/-- ENC.SETB r, b builds F1 B1 r 01 b s with TX_LEN = 6 (40_encode R113; 10_state R43; notes/assumptions/6.md). -/
def Obligations.SetByteBuildsItsFrame : Prop :=
  ∀ (reg value : Byte) (s : State), ∃ t, completesIn 2 (.sByte reg value) s t ∧
    t.txBytes 0 6 = [0xF1#8, 0xB1#8, reg, 0x01#8, value, reg + 1#8 + value] ∧
    t.encHdr = 0x0100B1F1#32 ||| reg.setWidth 32 <<< 16 ∧ t.csum = (reg + 1#8 + value).setWidth 32 ∧
    onlyFrameBuilt 6 s t

/-- ENC.CONNECT, ENC.BAUD and ENC.DISCONNECT build their frames for every HANDSHAKE_REG (40_encode R114, R115, R116; 10_state R43; notes/assumptions/6.md). -/
def Obligations.HandshakesBuildTheirFrames : Prop :=
  ∀ (hh index : Byte) (s : State),
    (∃ t, completesIn 2 (.hConnect hh 0x01#8) s t ∧
      t.txBytes 0 6 = [0xF1#8, 0xC1#8, hh, 0x01#8, 0x01#8, hh + 2#8] ∧
      t.encHdr = 0x0100C1F1#32 ||| hh.setWidth 32 <<< 16 ∧ t.csum = (hh + 2#8).setWidth 32 ∧ onlyFrameBuilt 6 s t) ∧
    (∃ t, completesIn 2 (.hBaud hh index) s t ∧
      t.txBytes 0 6 = [0xF1#8, 0xB0#8, hh, 0x01#8, index, hh + 1#8 + index] ∧
      t.encHdr = 0x0100B0F1#32 ||| hh.setWidth 32 <<< 16 ∧ t.csum = (hh + 1#8 + index).setWidth 32 ∧
      onlyFrameBuilt 6 s t) ∧
    (∃ t, completesIn 1 (.hDisconnect hh) s t ∧
      t.txBytes 0 5 = [0xF1#8, 0xC1#8, hh, 0x00#8, hh] ∧
      t.encHdr = 0x0000C1F1#32 ||| hh.setWidth 32 <<< 16 ∧ t.csum = hh.setWidth 32 ∧ onlyFrameBuilt 5 s t)

/-- ENC.FRAME d, c, r, payload builds d c r n payload s with TX_LEN = n + 5, for every payload of at most 255 bytes (40_encode R110; 10_state R43; notes/assumptions/6.md). -/
def Obligations.GenericFrameBuildsItsFrame : Prop :=
  ∀ (dir cmd reg : Byte) (payload : List Byte) (s : State), payload.length ≤ 255 →
    let n := payload.length
    let sum := BitVec.ofNat 8 (reg.toNat + n + (payload.map BitVec.toNat).sum)
    ∃ t, completesIn (n + 1) (.encFrame dir cmd reg payload) s t ∧
      t.txBytes 0 (n + 5) = [dir, cmd, reg, BitVec.ofNat 8 n] ++ payload ++ [sum] ∧
      t.encHdr = (BitVec.ofNat 8 n ++ reg) ++ (cmd ++ dir) ∧ t.csum = sum.setWidth 32 ∧ onlyFrameBuilt (n + 5) s t

/-- ENC.FRAME with a payload of more than 255 bytes is refused by name, and no bytes decode to it (40_encode R103; 93_implementation_defined SI3). -/
def Obligations.OverlongPayloadIsRefused : Prop :=
  (∀ (dir cmd reg : Byte) (payload : List Byte) (s : State), 255 < payload.length →
    exec (.encFrame dir cmd reg payload) s = .refused .payloadTooLong) ∧
  (∀ (src : Source) (bytes rest : List Byte) (dir cmd reg : Byte) (payload : List Byte),
    decode src bytes = .instr (.encFrame dir cmd reg payload) rest → payload.length ≤ 255)

/-- RESP.SETV decodes to VOLTAGE and RESP.SETI to CURRENT with the four payload bytes as RES_VAL (41_decode R139, R141; 60_exceptions R216; 10_state R43; notes/assumptions/6.md; notes/assumptions/7.md). -/
def Obligations.EchoResponsesDecodeToTheirFloat : Prop :=
  ∀ (len b0 b1 b2 b3 : Byte) (tail : List Byte) (s : State), 4 ≤ len.toNat → len.toNat ≤ tail.length + 4 →
    tail.length ≤ 252 → s.ctrlSel ≠ 3#2 →
      (∃ t, completesIn (tail.length + 9) (.respSetv len ([b0, b1, b2, b3] ++ tail)) s t ∧
        responseOutcome ([0xF0#8, 0xA1#8, 0xC1#8, len, b0, b1, b2, b3] ++ tail) s.ctrlSel 0#4 (infoWord 1#3 len 0xC1#8)
          (le32 b0 b1 b2 b3) [] s t) ∧
      (∃ t, completesIn (tail.length + 9) (.respSeti len ([b0, b1, b2, b3] ++ tail)) s t ∧
        responseOutcome ([0xF0#8, 0xA1#8, 0xC2#8, len, b0, b1, b2, b3] ++ tail) s.ctrlSel 0#4 (infoWord 2#3 len 0xC2#8)
          (le32 b0 b1 b2 b3) [] s t)

/-- RESP.TELEM decodes to the voltage, current or power that CTRL.SEL selects (41_decode R142; 60_exceptions R216; 10_state R43; notes/assumptions/6.md; notes/assumptions/7.md). -/
def Obligations.TelemetryResponseDecodesToTheSelectedFloat : Prop :=
  ∀ (len : Byte) (v c p : Word) (tail : List Byte) (s : State), 12 ≤ len.toNat → len.toNat ≤ tail.length + 12 →
    tail.length ≤ 244 → s.ctrlSel ≠ 3#2 →
      let body := wordBytes v ++ wordBytes c ++ wordBytes p ++ tail
      ∃ t, completesIn (tail.length + 17) (.respTelem len body) s t ∧
        responseOutcome ([0xF0#8, 0xA1#8, 0xC3#8, len] ++ body) s.ctrlSel 0#4
          (infoWord (1#3 + s.ctrlSel.setWidth 3) len 0xC3#8)
          (if s.ctrlSel = 0#2 then v else if s.ctrlSel = 1#2 then c else p) [] s t

/-- RESP.MODEL, RESP.HWVER and RESP.FWVER decode to BYTESTRING with the printable payload bytes displayed (41_decode R143, R144; 60_exceptions R216; 10_state R43; notes/assumptions/6.md; notes/assumptions/7.md). -/
def Obligations.IdentityResponsesDecodeToStrings : Prop :=
  ∀ (len : Byte) (body : List Byte) (s : State), 3 ≤ body.length → body.length ≤ 256 → len.toNat ≤ body.length →
    s.ctrlSel ≠ 3#2 →
      let shown := (body.take len.toNat).filter fun b => decide (0x20 ≤ b.toNat ∧ b.toNat ≤ 0x7E)
      (∃ t, completesIn (body.length + 5) (.respModel len body) s t ∧
        responseOutcome ([0xF0#8, 0xA1#8, 0xDE#8, len] ++ body) s.ctrlSel 0#4 (infoWord 4#3 len 0xDE#8) 0#32 shown s t) ∧
      (∃ t, completesIn (body.length + 5) (.respHwver len body) s t ∧
        responseOutcome ([0xF0#8, 0xA1#8, 0xDF#8, len] ++ body) s.ctrlSel 0#4 (infoWord 4#3 len 0xDF#8) 0#32 shown s t) ∧
      (∃ t, completesIn (body.length + 5) (.respFwver len body) s t ∧
        responseOutcome ([0xF0#8, 0xA1#8, 0xE0#8, len] ++ body) s.ctrlSel 0#4 (infoWord 4#3 len 0xE0#8) 0#32 shown s t)

/-- RESP.OTHER decodes to UNKNOWN with ERR = OK, whatever length it declares (41_decode R145; 60_exceptions R216; 10_state R43; notes/assumptions/6.md; notes/assumptions/7.md). -/
def Obligations.OtherResponsesDecodeToUnknown : Prop :=
  ∀ (reg len : Byte) (body : List Byte) (s : State), 3 ≤ body.length → body.length ≤ 256 →
    reg ∉ [0xC1#8, 0xC2#8, 0xC3#8, 0xDE#8, 0xDF#8, 0xE0#8] → s.ctrlSel ≠ 3#2 →
      ∃ t, completesIn (body.length + 5) (.respOther reg len body) s t ∧
        responseOutcome ([0xF0#8, 0xA1#8, reg, len] ++ body) s.ctrlSel 0#4 (infoWord 5#3 len reg) 0#32 [] s t

/-- A received frame of at most 6 bytes is NOT_A_RESPONSE; one whose payload is incomplete or too short is TRUNCATED (41_decode R133, R137, R138, R161; 60_exceptions R216; 10_state R43; notes/assumptions/6.md; notes/assumptions/7.md). -/
def Obligations.ShortOrTruncatedResponsesGiveNoValue : Prop :=
  (∀ (i : Instr) (reg len : Byte) (body : List Byte) (s : State), s.ctrlSel ≠ 3#2 →
    (i, reg) ∈ [(.respSetv len body, 0xC1#8), (.respSeti len body, 0xC2#8), (.respTelem len body, 0xC3#8),
      (.respModel len body, 0xDE#8), (.respHwver len body, 0xDF#8), (.respFwver len body, 0xE0#8),
      (.respOther reg len body, reg)] →
    body.length ≤ 2 → ∃ t, completesIn (body.length + 5) i s t ∧
      responseOutcome ([0xF0#8, 0xA1#8, reg, len] ++ body) s.ctrlSel 1#4 0#32 0#32 [] s t) ∧
  (∀ (i : Instr) (reg len : Byte) (fixedLen : Nat) (body : List Byte) (s : State), s.ctrlSel ≠ 3#2 →
    (i, reg, fixedLen) ∈ [(.respSetv len body, 0xC1#8, 4), (.respSeti len body, 0xC2#8, 4),
      (.respTelem len body, 0xC3#8, 12), (.respModel len body, 0xDE#8, 0), (.respHwver len body, 0xDF#8, 0),
      (.respFwver len body, 0xE0#8, 0)] →
    3 ≤ body.length → body.length ≤ 256 → (body.length < len.toNat ∨ len.toNat < fixedLen) →
      ∃ t, completesIn (body.length + 5) i s t ∧
        responseOutcome ([0xF0#8, 0xA1#8, reg, len] ++ body) s.ctrlSel 2#4 (infoWord 0#3 len reg) 0#32 [] s t)

/-- With the reserved selector in CTRL a received frame is stored and its DECODE reports ILLEGAL_CMD (41_decode R151, R152; 60_exceptions R204; 10_state R43; notes/assumptions/6.md; notes/assumptions/7.md). -/
def Obligations.ResponsesUnderTheReservedSelectorAreIllegal : Prop :=
  ∀ (i : Instr) (reg len : Byte) (body : List Byte) (s : State), s.ctrlSel = 3#2 → body.length ≤ 256 →
    (i, reg) ∈ [(.respSetv len body, 0xC1#8), (.respSeti len body, 0xC2#8), (.respTelem len body, 0xC3#8),
      (.respModel len body, 0xDE#8), (.respHwver len body, 0xDF#8), (.respFwver len body, 0xE0#8),
      (.respOther reg len body, reg)] →
      ∃ t, completesIn (body.length + 5) i s t ∧ t.rxBytes 0 (body.length + 4) = [0xF0#8, 0xA1#8, reg, len] ++ body ∧
        t = { s with
          ctrl := 0x00000032#32, status := 0x00000203#32, rxLen := BitVec.ofNat 32 (body.length + 4), response := .done,
          mem := t.mem } ∧
        sameBytesOutside 0x800 (body.length + 4) s t

/-- A frame row in the queue runs step by step as its single host accesses do, and completes (10_state R43; 40_encode R110-R116; 30_encoding R90; 60_exceptions R216; notes/assumptions/6.md; notes/assumptions/7.md). -/
def Obligations.FrameRowsAreTheirSingleAccesses : Prop :=
  ∀ (i : Instr) (s : State) (rest : List HostOp), i.wellFormed = true → i.source = .frame →
    (∀ k, 0 < k → steps k { s with hostQueue := .frame (encode i) :: rest } =
      steps k { s with hostQueue := expansion i s.ctrlSel ++ rest }) ∧
    ∃ t, steps (expansion i s.ctrlSel).length { s with hostQueue := .frame (encode i) :: rest } = .next t ∧
      t.hostQueue = rest

/-- A misaligned, narrow control, unmapped, read-only or RX_LEN > 260 access is answered by BusError and changes no FCODEC state (20_memory R52, R53, R56, R57, R58; 60_exceptions R206; notes/assumptions/5.md). -/
def Obligations.DisallowedAccessesAreBusErrors : Prop :=
  (∀ (a : Access) (s : State), disallowed a → answersBusError (accessOffset a) s (hostAccess a s)) ∧
  (∀ (v : Word) (s : State), v.toNat ≤ 260 →
    hostAccess (.store .word 0x010#12 v) s = .next { s with rxLen := v, response := .done })

/-- A step on an access that gets BusError performs no command (60_exceptions R206, R208; notes/assumptions/1.md; notes/assumptions/5.md). -/
def Obligations.BusErrorPrecedesTheCommand : Prop :=
  ∀ (s : State) (a : Access) (rest : List HostOp), s.hostQueue = .access a :: rest → disallowed a →
    answersBusError (accessOffset a) { s with hostQueue := rest } (step s)

/-- An aligned read of a buffer returns its bytes little-endian and changes nothing (20_memory R51, R54, R55, R59). -/
def Obligations.BufferReadsAreLittleEndian : Prop :=
  ∀ (n : AccessSize) (off : Offset) (s : State), off.toNat % n.bytes = 0 → isBufferByte off.toNat = true →
    ∃ w : Word, hostAccess (.load n off) s = .next { s with response := .data w } ∧
      w.toNat = ((List.range n.bytes).map fun k => (s.readByte (off.toNat + k)).toNat * 256 ^ k).sum

/-- An aligned write of TX_BUF or RX_BUF stores the data's low bytes little-endian and changes no other byte (20_memory R51, R54, R55, R59). -/
def Obligations.BufferWritesStoreLittleEndianBytes : Prop :=
  ∀ (n : AccessSize) (off : Offset) (v : Word) (s : State), off.toNat % n.bytes = 0 →
    ((0x400 ≤ off.toNat ∧ off.toNat ≤ 0x503) ∨ (0x800 ≤ off.toNat ∧ off.toNat ≤ 0x903)) →
      ∃ t, hostAccess (.store n off v) s = .next t ∧ t = { s with response := .done, mem := t.mem } ∧
        (∀ k, k < n.bytes → t.readByte (off.toNat + k) = v.extractLsb' (8 * k) 8) ∧
        sameBytesOutside off.toNat n.bytes s t

/-- Each control register reads at its offset, and ENC_HDR and RX_LEN are written there (10_state R22, R26, R28; 20_memory R53, R55, R58). -/
def Obligations.ControlRegistersReadAndWriteWhole : Prop :=
  ∀ s : State,
    (∀ (off : Offset) (w : Word), (off, w) ∈ [(0x000#12, s.ctrl), (0x004#12, s.status), (0x008#12, s.encHdr),
      (0x00C#12, s.txLen), (0x010#12, s.rxLen), (0x014#12, s.resInfo), (0x018#12, s.resVal), (0x01C#12, s.dispLen),
      (0x020#12, s.csum)] → hostAccess (.load .word off) s = .next { s with response := .data w }) ∧
    (∀ v : Word, hostAccess (.store .word 0x008#12 v) s = .next { s with encHdr := v, response := .done }) ∧
    (∀ v : Word, v.toNat ≤ 260 →
      hostAccess (.store .word 0x010#12 v) s = .next { s with rxLen := v, response := .done })

/-- A word or half-word access of a buffer is exactly its byte accesses, composed little-endian (20_memory R55, R68). -/
def Obligations.WideAccessesAreTheirByteAccesses : Prop :=
  (∀ (n : AccessSize) (off : Offset) (v : Word) (s : State), off.toNat % n.bytes = 0 →
    ((0x400 ≤ off.toNat ∧ off.toNat ≤ 0x503) ∨ (0x800 ≤ off.toNat ∧ off.toNat ≤ 0x903)) →
      ∃ t, hostAccess (.store n off v) s = .next t ∧
        hostAccesses (byteStores off.toNat ((wordBytes v).take n.bytes)) s = .next t ∧
        ∀ k, k < n.bytes → hostAccess (.load .byte (off + BitVec.ofNat 12 k)) t =
          .next { t with response := .data ((v.extractLsb' (8 * k) 8).setWidth 32) }) ∧
  (∀ (n : AccessSize) (off : Offset) (s : State), off.toNat % n.bytes = 0 → isBufferByte off.toNat = true →
      ∃ w : Word, hostAccess (.load n off) s = .next { s with response := .data w } ∧ w.toNat < 256 ^ n.bytes ∧
        ∀ k, k < n.bytes → hostAccess (.load .byte (off + BitVec.ofNat 12 k)) s =
          .next { s with response := .data ((w.extractLsb' (8 * k) 8).setWidth 32) })

/-- The state after reset is legal (10_state R23-R33, R38, R40). -/
def Obligations.ResetStateIsLegal : Prop :=
  State.reset.Legal

/-- Every step keeps the legal states (10_state R23-R33, R36, R38; 20_memory R58; 93_implementation_defined U6, U7). -/
def Obligations.StepKeepsLegalStates : Prop :=
  ∀ s t : State, s.Legal → step s = .next t → t.Legal

/-- Every well-formed instruction answers a next state from every state, and its accesses run to the end (60_exceptions R200, R207; 42_verify R177, R179; 10_state R43; notes/assumptions/6.md). -/
def Obligations.EveryWellFormedInstructionCompletes : Prop :=
  ∀ (i : Instr) (s : State), i.wellFormed = true → ∃ t, completesIn (accessesLeft i) i s t ∧
    t.hostQueue = s.hostQueue ∧ t.faultLog = s.faultLog ∧ t.wire = s.wire ∧ t.drawEpoch = s.drawEpoch ∧
    t.hostReaction = s.hostReaction

end
end

