-- ==== Sys2Proof/Laws/State.lean ====
section
/-!
SUPPORT. One lemma per field of State per named update, each true by definition: later proofs unfold no record update.
-/

namespace Sys2Proof.Machine

@[simp] theorem State.writeBytes_ctrl (s : State) (a : Nat) (bs : List Byte) : (s.writeBytes a bs).ctrl = s.ctrl := rfl
@[simp] theorem State.writeBytes_status (s : State) (a : Nat) (bs : List Byte) : (s.writeBytes a bs).status = s.status := rfl
@[simp] theorem State.writeBytes_encHdr (s : State) (a : Nat) (bs : List Byte) : (s.writeBytes a bs).encHdr = s.encHdr := rfl
@[simp] theorem State.writeBytes_txLen (s : State) (a : Nat) (bs : List Byte) : (s.writeBytes a bs).txLen = s.txLen := rfl
@[simp] theorem State.writeBytes_rxLen (s : State) (a : Nat) (bs : List Byte) : (s.writeBytes a bs).rxLen = s.rxLen := rfl
@[simp] theorem State.writeBytes_resInfo (s : State) (a : Nat) (bs : List Byte) : (s.writeBytes a bs).resInfo = s.resInfo := rfl
@[simp] theorem State.writeBytes_resVal (s : State) (a : Nat) (bs : List Byte) : (s.writeBytes a bs).resVal = s.resVal := rfl
@[simp] theorem State.writeBytes_dispLen (s : State) (a : Nat) (bs : List Byte) : (s.writeBytes a bs).dispLen = s.dispLen := rfl
@[simp] theorem State.writeBytes_csum (s : State) (a : Nat) (bs : List Byte) : (s.writeBytes a bs).csum = s.csum := rfl
@[simp] theorem State.writeBytes_mem (s : State) (a : Nat) (bs : List Byte) : (s.writeBytes a bs).mem = s.mem.write a bs := rfl
@[simp] theorem State.writeBytes_drawEpoch (s : State) (a : Nat) (bs : List Byte) : (s.writeBytes a bs).drawEpoch = s.drawEpoch := rfl
@[simp] theorem State.writeBytes_hostQueue (s : State) (a : Nat) (bs : List Byte) : (s.writeBytes a bs).hostQueue = s.hostQueue := rfl
@[simp] theorem State.writeBytes_response (s : State) (a : Nat) (bs : List Byte) : (s.writeBytes a bs).response = s.response := rfl
@[simp] theorem State.writeBytes_hostReaction (s : State) (a : Nat) (bs : List Byte) : (s.writeBytes a bs).hostReaction = s.hostReaction := rfl
@[simp] theorem State.writeBytes_faultLog (s : State) (a : Nat) (bs : List Byte) : (s.writeBytes a bs).faultLog = s.faultLog := rfl
@[simp] theorem State.writeBytes_wire (s : State) (a : Nat) (bs : List Byte) : (s.writeBytes a bs).wire = s.wire := rfl

@[simp] theorem State.respond_ctrl (s : State) (r : BusResponse) : (s.respond r).ctrl = s.ctrl := rfl
@[simp] theorem State.respond_status (s : State) (r : BusResponse) : (s.respond r).status = s.status := rfl
@[simp] theorem State.respond_encHdr (s : State) (r : BusResponse) : (s.respond r).encHdr = s.encHdr := rfl
@[simp] theorem State.respond_txLen (s : State) (r : BusResponse) : (s.respond r).txLen = s.txLen := rfl
@[simp] theorem State.respond_rxLen (s : State) (r : BusResponse) : (s.respond r).rxLen = s.rxLen := rfl
@[simp] theorem State.respond_resInfo (s : State) (r : BusResponse) : (s.respond r).resInfo = s.resInfo := rfl
@[simp] theorem State.respond_resVal (s : State) (r : BusResponse) : (s.respond r).resVal = s.resVal := rfl
@[simp] theorem State.respond_dispLen (s : State) (r : BusResponse) : (s.respond r).dispLen = s.dispLen := rfl
@[simp] theorem State.respond_csum (s : State) (r : BusResponse) : (s.respond r).csum = s.csum := rfl
@[simp] theorem State.respond_mem (s : State) (r : BusResponse) : (s.respond r).mem = s.mem := rfl
@[simp] theorem State.respond_drawEpoch (s : State) (r : BusResponse) : (s.respond r).drawEpoch = s.drawEpoch := rfl
@[simp] theorem State.respond_hostQueue (s : State) (r : BusResponse) : (s.respond r).hostQueue = s.hostQueue := rfl
@[simp] theorem State.respond_response (s : State) (r : BusResponse) : (s.respond r).response = r := rfl
@[simp] theorem State.respond_hostReaction (s : State) (r : BusResponse) : (s.respond r).hostReaction = s.hostReaction := rfl
@[simp] theorem State.respond_faultLog (s : State) (r : BusResponse) : (s.respond r).faultLog = s.faultLog := rfl
@[simp] theorem State.respond_wire (s : State) (r : BusResponse) : (s.respond r).wire = s.wire := rfl

@[simp] theorem State.dequeue_ctrl (s : State) (rest : List HostOp) : (s.dequeue rest).ctrl = s.ctrl := rfl
@[simp] theorem State.dequeue_status (s : State) (rest : List HostOp) : (s.dequeue rest).status = s.status := rfl
@[simp] theorem State.dequeue_encHdr (s : State) (rest : List HostOp) : (s.dequeue rest).encHdr = s.encHdr := rfl
@[simp] theorem State.dequeue_txLen (s : State) (rest : List HostOp) : (s.dequeue rest).txLen = s.txLen := rfl
@[simp] theorem State.dequeue_rxLen (s : State) (rest : List HostOp) : (s.dequeue rest).rxLen = s.rxLen := rfl
@[simp] theorem State.dequeue_resInfo (s : State) (rest : List HostOp) : (s.dequeue rest).resInfo = s.resInfo := rfl
@[simp] theorem State.dequeue_resVal (s : State) (rest : List HostOp) : (s.dequeue rest).resVal = s.resVal := rfl
@[simp] theorem State.dequeue_dispLen (s : State) (rest : List HostOp) : (s.dequeue rest).dispLen = s.dispLen := rfl
@[simp] theorem State.dequeue_csum (s : State) (rest : List HostOp) : (s.dequeue rest).csum = s.csum := rfl
@[simp] theorem State.dequeue_mem (s : State) (rest : List HostOp) : (s.dequeue rest).mem = s.mem := rfl
@[simp] theorem State.dequeue_drawEpoch (s : State) (rest : List HostOp) : (s.dequeue rest).drawEpoch = s.drawEpoch := rfl
@[simp] theorem State.dequeue_hostQueue (s : State) (rest : List HostOp) : (s.dequeue rest).hostQueue = rest := rfl
@[simp] theorem State.dequeue_response (s : State) (rest : List HostOp) : (s.dequeue rest).response = s.response := rfl
@[simp] theorem State.dequeue_hostReaction (s : State) (rest : List HostOp) : (s.dequeue rest).hostReaction = s.hostReaction := rfl
@[simp] theorem State.dequeue_faultLog (s : State) (rest : List HostOp) : (s.dequeue rest).faultLog = s.faultLog := rfl
@[simp] theorem State.dequeue_wire (s : State) (rest : List HostOp) : (s.dequeue rest).wire = s.wire := rfl

@[simp] theorem State.setCtrl_ctrl (s : State) (op : BitVec 3) (sel : BitVec 2) : (s.setCtrl op sel).ctrl = ctrlWord op sel := rfl
@[simp] theorem State.setCtrl_status (s : State) (op : BitVec 3) (sel : BitVec 2) : (s.setCtrl op sel).status = s.status := rfl
@[simp] theorem State.setCtrl_encHdr (s : State) (op : BitVec 3) (sel : BitVec 2) : (s.setCtrl op sel).encHdr = s.encHdr := rfl
@[simp] theorem State.setCtrl_txLen (s : State) (op : BitVec 3) (sel : BitVec 2) : (s.setCtrl op sel).txLen = s.txLen := rfl
@[simp] theorem State.setCtrl_rxLen (s : State) (op : BitVec 3) (sel : BitVec 2) : (s.setCtrl op sel).rxLen = s.rxLen := rfl
@[simp] theorem State.setCtrl_resInfo (s : State) (op : BitVec 3) (sel : BitVec 2) : (s.setCtrl op sel).resInfo = s.resInfo := rfl
@[simp] theorem State.setCtrl_resVal (s : State) (op : BitVec 3) (sel : BitVec 2) : (s.setCtrl op sel).resVal = s.resVal := rfl
@[simp] theorem State.setCtrl_dispLen (s : State) (op : BitVec 3) (sel : BitVec 2) : (s.setCtrl op sel).dispLen = s.dispLen := rfl
@[simp] theorem State.setCtrl_csum (s : State) (op : BitVec 3) (sel : BitVec 2) : (s.setCtrl op sel).csum = s.csum := rfl
@[simp] theorem State.setCtrl_mem (s : State) (op : BitVec 3) (sel : BitVec 2) : (s.setCtrl op sel).mem = s.mem := rfl
@[simp] theorem State.setCtrl_drawEpoch (s : State) (op : BitVec 3) (sel : BitVec 2) : (s.setCtrl op sel).drawEpoch = s.drawEpoch := rfl
@[simp] theorem State.setCtrl_hostQueue (s : State) (op : BitVec 3) (sel : BitVec 2) : (s.setCtrl op sel).hostQueue = s.hostQueue := rfl
@[simp] theorem State.setCtrl_response (s : State) (op : BitVec 3) (sel : BitVec 2) : (s.setCtrl op sel).response = s.response := rfl
@[simp] theorem State.setCtrl_hostReaction (s : State) (op : BitVec 3) (sel : BitVec 2) : (s.setCtrl op sel).hostReaction = s.hostReaction := rfl
@[simp] theorem State.setCtrl_faultLog (s : State) (op : BitVec 3) (sel : BitVec 2) : (s.setCtrl op sel).faultLog = s.faultLog := rfl
@[simp] theorem State.setCtrl_wire (s : State) (op : BitVec 3) (sel : BitVec 2) : (s.setCtrl op sel).wire = s.wire := rfl

@[simp] theorem State.report_ctrl (s : State) (err : ErrCode) (ok present : Bool) (op : BitVec 3) : (s.report err ok present op).ctrl = s.ctrl := rfl
@[simp] theorem State.report_status (s : State) (err : ErrCode) (ok present : Bool) (op : BitVec 3) : (s.report err ok present op).status = statusWord err ok present op := rfl
@[simp] theorem State.report_encHdr (s : State) (err : ErrCode) (ok present : Bool) (op : BitVec 3) : (s.report err ok present op).encHdr = s.encHdr := rfl
@[simp] theorem State.report_txLen (s : State) (err : ErrCode) (ok present : Bool) (op : BitVec 3) : (s.report err ok present op).txLen = s.txLen := rfl
@[simp] theorem State.report_rxLen (s : State) (err : ErrCode) (ok present : Bool) (op : BitVec 3) : (s.report err ok present op).rxLen = s.rxLen := rfl
@[simp] theorem State.report_resInfo (s : State) (err : ErrCode) (ok present : Bool) (op : BitVec 3) : (s.report err ok present op).resInfo = s.resInfo := rfl
@[simp] theorem State.report_resVal (s : State) (err : ErrCode) (ok present : Bool) (op : BitVec 3) : (s.report err ok present op).resVal = s.resVal := rfl
@[simp] theorem State.report_dispLen (s : State) (err : ErrCode) (ok present : Bool) (op : BitVec 3) : (s.report err ok present op).dispLen = s.dispLen := rfl
@[simp] theorem State.report_csum (s : State) (err : ErrCode) (ok present : Bool) (op : BitVec 3) : (s.report err ok present op).csum = s.csum := rfl
@[simp] theorem State.report_mem (s : State) (err : ErrCode) (ok present : Bool) (op : BitVec 3) : (s.report err ok present op).mem = s.mem := rfl
@[simp] theorem State.report_drawEpoch (s : State) (err : ErrCode) (ok present : Bool) (op : BitVec 3) : (s.report err ok present op).drawEpoch = s.drawEpoch := rfl
@[simp] theorem State.report_hostQueue (s : State) (err : ErrCode) (ok present : Bool) (op : BitVec 3) : (s.report err ok present op).hostQueue = s.hostQueue := rfl
@[simp] theorem State.report_response (s : State) (err : ErrCode) (ok present : Bool) (op : BitVec 3) : (s.report err ok present op).response = s.response := rfl
@[simp] theorem State.report_hostReaction (s : State) (err : ErrCode) (ok present : Bool) (op : BitVec 3) : (s.report err ok present op).hostReaction = s.hostReaction := rfl
@[simp] theorem State.report_faultLog (s : State) (err : ErrCode) (ok present : Bool) (op : BitVec 3) : (s.report err ok present op).faultLog = s.faultLog := rfl
@[simp] theorem State.report_wire (s : State) (err : ErrCode) (ok present : Bool) (op : BitVec 3) : (s.report err ok present op).wire = s.wire := rfl

@[simp] theorem State.resetFcodec_ctrl (s : State) : s.resetFcodec.ctrl = 0#32 := rfl
@[simp] theorem State.resetFcodec_status (s : State) : s.resetFcodec.status = 0#32 := rfl
@[simp] theorem State.resetFcodec_encHdr (s : State) : s.resetFcodec.encHdr = 0#32 := rfl
@[simp] theorem State.resetFcodec_txLen (s : State) : s.resetFcodec.txLen = 0#32 := rfl
@[simp] theorem State.resetFcodec_rxLen (s : State) : s.resetFcodec.rxLen = 0#32 := rfl
@[simp] theorem State.resetFcodec_resInfo (s : State) : s.resetFcodec.resInfo = 0#32 := rfl
@[simp] theorem State.resetFcodec_resVal (s : State) : s.resetFcodec.resVal = 0#32 := rfl
@[simp] theorem State.resetFcodec_dispLen (s : State) : s.resetFcodec.dispLen = 0#32 := rfl
@[simp] theorem State.resetFcodec_csum (s : State) : s.resetFcodec.csum = 0#32 := rfl
@[simp] theorem State.resetFcodec_mem (s : State) : s.resetFcodec.mem = [] := rfl
@[simp] theorem State.resetFcodec_drawEpoch (s : State) : s.resetFcodec.drawEpoch = s.drawEpoch + 1 := rfl
@[simp] theorem State.resetFcodec_hostQueue (s : State) : s.resetFcodec.hostQueue = s.hostQueue := rfl
@[simp] theorem State.resetFcodec_response (s : State) : s.resetFcodec.response = s.response := rfl
@[simp] theorem State.resetFcodec_hostReaction (s : State) : s.resetFcodec.hostReaction = s.hostReaction := rfl
@[simp] theorem State.resetFcodec_faultLog (s : State) : s.resetFcodec.faultLog = s.faultLog := rfl
@[simp] theorem State.resetFcodec_wire (s : State) : s.resetFcodec.wire = s.wire := rfl

@[simp] theorem State.willIssue_ctrl (s : State) (as : List Access) : (s.willIssue as).ctrl = s.ctrl := rfl
@[simp] theorem State.willIssue_status (s : State) (as : List Access) : (s.willIssue as).status = s.status := rfl
@[simp] theorem State.willIssue_encHdr (s : State) (as : List Access) : (s.willIssue as).encHdr = s.encHdr := rfl
@[simp] theorem State.willIssue_txLen (s : State) (as : List Access) : (s.willIssue as).txLen = s.txLen := rfl
@[simp] theorem State.willIssue_rxLen (s : State) (as : List Access) : (s.willIssue as).rxLen = s.rxLen := rfl
@[simp] theorem State.willIssue_resInfo (s : State) (as : List Access) : (s.willIssue as).resInfo = s.resInfo := rfl
@[simp] theorem State.willIssue_resVal (s : State) (as : List Access) : (s.willIssue as).resVal = s.resVal := rfl
@[simp] theorem State.willIssue_dispLen (s : State) (as : List Access) : (s.willIssue as).dispLen = s.dispLen := rfl
@[simp] theorem State.willIssue_csum (s : State) (as : List Access) : (s.willIssue as).csum = s.csum := rfl
@[simp] theorem State.willIssue_mem (s : State) (as : List Access) : (s.willIssue as).mem = s.mem := rfl
@[simp] theorem State.willIssue_drawEpoch (s : State) (as : List Access) : (s.willIssue as).drawEpoch = s.drawEpoch := rfl
@[simp] theorem State.willIssue_hostQueue (s : State) (as : List Access) : (s.willIssue as).hostQueue = as.map .access ++ s.hostQueue := rfl
@[simp] theorem State.willIssue_response (s : State) (as : List Access) : (s.willIssue as).response = s.response := rfl
@[simp] theorem State.willIssue_hostReaction (s : State) (as : List Access) : (s.willIssue as).hostReaction = s.hostReaction := rfl
@[simp] theorem State.willIssue_faultLog (s : State) (as : List Access) : (s.willIssue as).faultLog = s.faultLog := rfl
@[simp] theorem State.willIssue_wire (s : State) (as : List Access) : (s.willIssue as).wire = s.wire := rfl

/-- What continuing a SEND can do: the queue gets the rest of the SEND, or nothing changes. -/
theorem State.keepSending_eq (s : State) (read : List Byte) :
    s.keepSending read = s ∨ ∃ w, s.response = .data w ∧ s.keepSending read = s.dequeue (.send (read ++ [w.setWidth 8]) :: s.hostQueue) := by
  unfold State.keepSending
  split
  · exact .inr ⟨_, ‹_›, rfl⟩
  all_goals exact .inl rfl

@[simp] theorem State.keepSending_ctrl (s : State) (read : List Byte) : (s.keepSending read).ctrl = s.ctrl := by
  unfold State.keepSending; split <;> rfl
@[simp] theorem State.keepSending_status (s : State) (read : List Byte) : (s.keepSending read).status = s.status := by
  unfold State.keepSending; split <;> rfl
@[simp] theorem State.keepSending_encHdr (s : State) (read : List Byte) : (s.keepSending read).encHdr = s.encHdr := by
  unfold State.keepSending; split <;> rfl
@[simp] theorem State.keepSending_txLen (s : State) (read : List Byte) : (s.keepSending read).txLen = s.txLen := by
  unfold State.keepSending; split <;> rfl
@[simp] theorem State.keepSending_rxLen (s : State) (read : List Byte) : (s.keepSending read).rxLen = s.rxLen := by
  unfold State.keepSending; split <;> rfl
@[simp] theorem State.keepSending_resInfo (s : State) (read : List Byte) : (s.keepSending read).resInfo = s.resInfo := by
  unfold State.keepSending; split <;> rfl
@[simp] theorem State.keepSending_resVal (s : State) (read : List Byte) : (s.keepSending read).resVal = s.resVal := by
  unfold State.keepSending; split <;> rfl
@[simp] theorem State.keepSending_dispLen (s : State) (read : List Byte) : (s.keepSending read).dispLen = s.dispLen := by
  unfold State.keepSending; split <;> rfl
@[simp] theorem State.keepSending_csum (s : State) (read : List Byte) : (s.keepSending read).csum = s.csum := by
  unfold State.keepSending; split <;> rfl
@[simp] theorem State.keepSending_mem (s : State) (read : List Byte) : (s.keepSending read).mem = s.mem := by
  unfold State.keepSending; split <;> rfl
@[simp] theorem State.keepSending_drawEpoch (s : State) (read : List Byte) : (s.keepSending read).drawEpoch = s.drawEpoch := by
  unfold State.keepSending; split <;> rfl
@[simp] theorem State.keepSending_response (s : State) (read : List Byte) : (s.keepSending read).response = s.response := by
  unfold State.keepSending; split <;> rfl
@[simp] theorem State.keepSending_hostReaction (s : State) (read : List Byte) : (s.keepSending read).hostReaction = s.hostReaction := by
  unfold State.keepSending; split <;> rfl
@[simp] theorem State.keepSending_faultLog (s : State) (read : List Byte) : (s.keepSending read).faultLog = s.faultLog := by
  unfold State.keepSending; split <;> rfl
@[simp] theorem State.keepSending_wire (s : State) (read : List Byte) : (s.keepSending read).wire = s.wire := by
  unfold State.keepSending; split <;> rfl

end Sys2Proof.Machine
end

