-- ==== Sys2Proof/Laws/Memory.lean ====
section
/-!
SUPPORT. What writing a run of bytes does to the buffers' list: the byte each location holds afterwards, and that the canonical
form is kept.
-/

namespace Sys2Proof.Machine

theorem Memory.get?_append (m n : Memory) (b : Nat) :
    Memory.get? (m ++ n) b = (Memory.get? m b).or (Memory.get? n b) := by
  induction m with
  | nil => simp [Memory.get?]
  | cons c m ih => by_cases h : c.1 = b <;> simp [Memory.get?, h, ih]

theorem Memory.get?_filter_of_true (m : Memory) (p : Nat → Bool) {b : Nat} (h : p b = true) :
    Memory.get? (m.filter fun c => p c.1) b = Memory.get? m b := by
  induction m with
  | nil => rfl
  | cons c m ih =>
    by_cases hc : c.1 = b
    · subst hc; simp [Memory.get?, h]
    · by_cases hp : p c.1 = true <;> simp [Memory.get?, hp, hc, ih]

theorem Memory.get?_filter_of_false (m : Memory) (p : Nat → Bool) {b : Nat} (h : p b = false) :
    Memory.get? (m.filter fun c => p c.1) b = none := by
  induction m with
  | nil => rfl
  | cons c m ih =>
    by_cases hp : p c.1 = true
    · have hc : c.1 ≠ b := fun e => by simp [e, h] at hp
      simp [Memory.get?, hp, hc, ih]
    · simp [hp, ih]

theorem cellsFrom_get? (a : Nat) (bs : List Byte) (b : Nat) :
    Memory.get? (cellsFrom a bs) b = if a ≤ b then bs[b - a]? else none := by
  induction bs generalizing a with
  | nil => simp [cellsFrom, Memory.get?]
  | cons v bs ih =>
    rw [cellsFrom, Memory.get?, ih]
    by_cases h : a = b
    · subst h; simp
    · by_cases h1 : a ≤ b
      · have h2 : a + 1 ≤ b := by omega
        have h3 : b - a = b - (a + 1) + 1 := by omega
        simp [h, h1, h2, h3]
      · have h2 : ¬ a + 1 ≤ b := by omega
        simp [h, h1, h2]

/-- After a write, the run holds the written bytes and every other location what it held. -/
theorem Memory.get?_write (m : Memory) (a : Nat) (bs : List Byte) (b : Nat) :
    (m.write a bs).get? b = if a ≤ b ∧ b < a + bs.length then bs[b - a]? else m.get? b := by
  unfold Memory.write
  rw [Memory.get?_append, Memory.get?_append, cellsFrom_get?]
  by_cases h1 : b < a
  · have h2 : ¬ a ≤ b := by omega
    have h3 : ¬ a + bs.length ≤ b := by omega
    rw [Memory.get?_filter_of_true m (fun x => decide (x < a)) (by simpa using h1),
      Memory.get?_filter_of_false m (fun x => decide (a + bs.length ≤ x)) (by simpa using h3)]
    simp [h2]
  · rw [Memory.get?_filter_of_false m (fun x => decide (x < a)) (by simpa using h1)]
    by_cases h2 : b < a + bs.length
    · rw [Memory.get?_filter_of_false m (fun x => decide (a + bs.length ≤ x)) (by simp; omega)]
      have h3 : a ≤ b := by omega
      simp [h2, h3]
    · rw [Memory.get?_filter_of_true m (fun x => decide (a + bs.length ≤ x)) (by simp; omega)]
      have h3 : a ≤ b := by omega
      have h4 : bs.length ≤ b - a := by omega
      simp [h2, h3, h4]

theorem cellsFrom_mem {a : Nat} {bs : List Byte} {c : Host.Cell} (h : c ∈ cellsFrom a bs) :
    a ≤ c.1 ∧ c.1 < a + bs.length ∧ c.2 ∈ bs := by
  induction bs generalizing a with
  | nil => simp [cellsFrom] at h
  | cons v bs ih =>
    simp only [cellsFrom, List.mem_cons] at h
    rcases h with rfl | h
    · simp
    · have := ih h
      refine ⟨by omega, by simp only [List.length_cons]; omega, List.mem_cons_of_mem _ this.2.2⟩

theorem cellsFrom_pairwise (a : Nat) (bs : List Byte) : (cellsFrom a bs).Pairwise fun c d => c.1 < d.1 := by
  induction bs generalizing a with
  | nil => exact List.Pairwise.nil
  | cons v bs ih =>
    refine List.Pairwise.cons (fun c hc => ?_) (ih (a + 1))
    have := (cellsFrom_mem hc).1
    simp only; omega

/-- The cells after a write are the run's and the earlier ones outside the run. -/
theorem Memory.mem_write {m : Memory} {a : Nat} {bs : List Byte} {c : Host.Cell} :
    c ∈ m.write a bs ↔ (c ∈ m ∧ c.1 < a) ∨ c ∈ cellsFrom a bs ∨ (c ∈ m ∧ a + bs.length ≤ c.1) := by
  unfold Memory.write
  simp

/-- Every write inside the buffers keeps the canonical form. -/
theorem Memory.write_wf {m : Memory} {a : Nat} {bs : List Byte} (h : m.wf)
    (hin : ∀ i, i < bs.length → isBufferByte (a + i) = true) : (m.write a bs).wf := by
  refine ⟨?_, fun c hc => ?_⟩
  · unfold Memory.write
    rw [List.pairwise_append, List.pairwise_append]
    refine ⟨⟨h.1.filter _, cellsFrom_pairwise a bs, ?_⟩, h.1.filter _, ?_⟩
    · intro c hc d hd
      have h1 := (List.mem_filter.1 hc).2
      have h2 := (cellsFrom_mem hd).1
      simp at h1; omega
    · intro c hc d hd
      have h2 := (List.mem_filter.1 hd).2
      simp at h2
      rcases List.mem_append.1 hc with hc | hc
      · have h1 := (List.mem_filter.1 hc).2
        simp at h1; omega
      · have h1 := (cellsFrom_mem hc).2.1
        omega
  · rcases Memory.mem_write.1 hc with hc | hc | hc
    · exact h.2 c hc.1
    · obtain ⟨h1, h2, -⟩ := cellsFrom_mem hc
      have := hin (c.1 - a) (by omega)
      rwa [Nat.add_sub_cancel' h1] at this
    · exact h.2 c hc.1

/-- The empty list of State.reset is in the canonical form. -/
theorem State.reset_mem_wf : State.reset.mem.wf := by decide

/-- What a location reads as after a write (10_state R42). -/
theorem State.readByte_writeBytes (s : State) (a : Nat) (bs : List Byte) (b : Nat) :
    (s.writeBytes a bs).readByte b = if a ≤ b ∧ b < a + bs.length then bs.getD (b - a) 0#8 else s.readByte b := by
  unfold State.readByte
  simp only [State.writeBytes_mem, State.writeBytes_drawEpoch, Memory.get?_write]
  by_cases h : a ≤ b ∧ b < a + bs.length
  · have h1 : b - a < bs.length := by omega
    simp [h, h1]
  · simp only [h, if_false]

end Sys2Proof.Machine
end

