-- ==== Sys2Proof/Laws/Ops.lean ====
section
/-!
SUPPORT. What each shared operation can do, said once: the bus error, a read, a write, a run of accesses (as one program and as
single steps), a helper's expansion, a received frame, a frame handed over.
-/

namespace Sys2Proof.Machine

/-- A bus error that answers a next state is one the host carries on from; FCODEC's state is unchanged. -/
theorem busError_next {off : Offset} {s t : State} (h : busError off s = .next t) :
    s.hostReaction = .carryOn ∧ t = { s with response := .error off, faultLog := s.faultLog ++ [off] } := by
  unfold busError at h
  split at h
  · cases h
  · cases h; exact ⟨‹_›, rfl⟩

/-- A bus error is never a refusal. -/
theorem busError_ne_refused {off : Offset} {s : State} {r : Refusal} : busError off s ≠ .refused r := by
  unfold busError; split <;> simp

/-- A read that answers a next state changes the bus response alone, or is a bus error the host carries on from. -/
theorem hostLoad_next {n : AccessSize} {off : Offset} {s t : State} (h : hostLoad n off s = .next t) :
    (loadAllowed n off = true ∧ ∃ w, t = s.respond (.data w)) ∨
      (loadAllowed n off = false ∧ busError off s = .next t) := by
  unfold hostLoad at h
  split at h
  · rename_i ha
    refine .inl ⟨ha, ?_⟩
    split at h <;> cases h <;> exact ⟨_, rfl⟩
  · rename_i ha
    exact .inr ⟨by simpa using ha, h⟩

/-- A write that answers a next state stores to CTRL, ENC_HDR, RX_LEN (at most 260) or a buffer, or is a bus error the host
carries on from. -/
theorem hostStore_next {n : AccessSize} {off : Offset} {v : Word} {s t : State} (h : hostStore n off v s = .next t) :
    (storeAllowed n off v = true ∧
      ((regionOf off = .control .ctrl ∧ t = (s.setCtrl (v.extractLsb' 0 3) (v.extractLsb' 4 2)).respond .done) ∨
       (regionOf off = .control .encHdr ∧ t = { s with encHdr := v, response := .done }) ∨
       (regionOf off = .control .rxLen ∧ v.toNat ≤ 260 ∧ t = { s with rxLen := v, response := .done }) ∨
       ((regionOf off = .txBuf ∨ regionOf off = .rxBuf) ∧
         t = (s.writeBytes off.toNat ((wordBytes v).take n.bytes)).respond .done))) ∨
      busError off s = .next t := by
  unfold hostStore at h
  split at h
  · rename_i ha
    split at h
    · rename_i hr; cases h; exact .inl ⟨ha, .inl ⟨hr, rfl⟩⟩
    · rename_i hr; cases h; exact .inl ⟨ha, .inr (.inl ⟨hr, rfl⟩)⟩
    · rename_i hr
      cases h
      refine .inl ⟨ha, .inr (.inr (.inl ⟨hr, ?_, rfl⟩))⟩
      simp [storeAllowed, hr] at ha
      exact ha.2.2
    · exact .inr h
    · rename_i hr; cases h; exact .inl ⟨ha, .inr (.inr (.inr ⟨.inl hr, rfl⟩))⟩
    · rename_i hr; cases h; exact .inl ⟨ha, .inr (.inr (.inr ⟨.inr hr, rfl⟩))⟩
    · exact .inr h
    · exact .inr h
  · exact .inr h

/-! ### Runs of accesses -/

@[simp] theorem hostAccesses_nil (s : State) : hostAccesses [] s = .next s := rfl

theorem hostAccesses_cons_of_next {a : Access} {as : List Access} {s t : State} (h : hostAccess a s = .next t) :
    hostAccesses (a :: as) s = hostAccesses as t := by
  simp [hostAccesses, h]

theorem hostAccesses_append_of_next {as bs : List Access} {s t : State} (h : hostAccesses as s = .next t) :
    hostAccesses (as ++ bs) s = hostAccesses bs t := by
  induction as generalizing s with
  | nil => cases h; rfl
  | cons a as ih =>
    simp only [hostAccesses] at h
    split at h
    · rename_i u hu
      rw [List.cons_append, hostAccesses_cons_of_next hu, ih h]
    · cases h
    · cases h

/-! ### Single steps -/

@[simp] theorem steps_zero (s : State) : steps 0 s = .next s := rfl

theorem steps_succ_of_next {k : Nat} {s t : State} (h : step s = .next t) : steps (k + 1) s = steps k t := by
  simp [steps, h]

theorem steps_succ_of_fault {k : Nat} {s : State} {r : Fault} (h : step s = .fault r) : steps (k + 1) s = .fault r := by
  simp [steps, h]

/-- A run of steps is one run and then the other. -/
theorem steps_add {j k : Nat} {s t : State} (h : steps j s = .next t) : steps (j + k) s = steps k t := by
  induction j generalizing s with
  | zero => cases h; simp
  | succ j ih =>
    simp only [steps] at h
    split at h
    · rename_i u hu
      rw [Nat.succ_add, steps_succ_of_next hu, ih h]
    · cases h
    · cases h

/-- A CTRL write is the one access that a step decodes as an instruction (42_verify R177). -/
def Access.startsCommand (a : Access) : Bool := (fetchBytes (.access a)).isSome

/-- An access reads and writes nothing of the host's queue. -/
theorem hostAccess_dequeue {a : Access} {s t : State} (h : hostAccess a s = .next t) (q : List HostOp) :
    hostAccess a (s.dequeue q) = .next (t.dequeue q) := by
  cases a with
  | load n off =>
    simp only [hostAccess] at h ⊢
    unfold hostLoad at h ⊢
    split at h
    · rename_i ha
      rw [if_pos ha]
      split at h <;> cases h <;> rfl
    · rename_i ha
      rw [if_neg ha]
      obtain ⟨hc, rfl⟩ := busError_next h
      simp [busError, hc, State.dequeue]
  | store n off v =>
    simp only [hostAccess] at h ⊢
    unfold hostStore at h ⊢
    have hb : ∀ {t : State}, busError off s = .next t → busError off (s.dequeue q) = .next (t.dequeue q) := by
      intro t ht
      obtain ⟨hc, rfl⟩ := busError_next ht
      simp [busError, hc, State.dequeue]
    split at h
    · rename_i ha
      rw [if_pos ha]
      split at h <;> first | exact hb h | (cases h; rfl)
    · rename_i ha
      rw [if_neg ha]
      exact hb h

theorem hostAccess_hostQueue {a : Access} {s t : State} (h : hostAccess a s = .next t) : t.hostQueue = s.hostQueue := by
  have h1 := hostAccess_dequeue h s.hostQueue
  have h2 : s.dequeue s.hostQueue = s := rfl
  rw [h2, h] at h1
  simpa using congrArg State.hostQueue (Host.Outcome.next.inj h1)

theorem hostAccesses_hostQueue {as : List Access} {s t : State} (h : hostAccesses as s = .next t) :
    t.hostQueue = s.hostQueue := by
  induction as generalizing s with
  | nil => cases h; rfl
  | cons a as ih =>
    simp only [hostAccesses] at h
    split at h
    · rename_i u hu
      rw [ih h, hostAccess_hostQueue hu]
    · cases h
    · cases h

/-- A step on an access that starts no command performs it. -/
theorem step_access {a : Access} {s : State} {q : List HostOp} (ha : a.startsCommand = false) :
    step (s.dequeue (.access a :: q)) = hostAccess a (s.dequeue q) := by
  have hf : fetchBytes (.access a) = none := by simpa [Access.startsCommand] using ha
  simp only [step, State.dequeue_hostQueue, hf]
  rfl

/-- A step on the write of CTRL that DECODE, ENCODE or another command abbreviates runs that command. -/
theorem step_ctrl {w : Word} {s : State} {q : List HostOp} :
    step (s.dequeue (.access (.store .word 0x000#12 w) :: q)) =
      exec (decodeCommandWord (le32 (wordByte w 0) (wordByte w 1) (wordByte w 2) (wordByte w 3)))
        ((s.dequeue q).respond .done) := rfl

/-- Accesses that start no command run one a step, and end where the same accesses end as one program. -/
theorem run_accesses {as : List Access} {s t : State} (h : hostAccesses as s = .next t)
    (hc : ∀ a ∈ as, a.startsCommand = false) (k : Nat) (q : List HostOp) :
    steps (as.length + k) (s.dequeue (as.map .access ++ q)) =
      steps k (t.dequeue q) := by
  induction as generalizing s with
  | nil => cases h; simp
  | cons a as ih =>
    simp only [hostAccesses] at h
    split at h
    · rename_i u hu
      have hstep : step (s.dequeue ((a :: as).map .access ++ q)) = .next (u.dequeue (as.map .access ++ q)) := by
        rw [List.map_cons, List.cons_append, step_access (hc a (by simp)), hostAccess_dequeue hu]
      rw [List.length_cons, Nat.succ_add, steps_succ_of_next hstep]
      exact ih h fun b hb => hc b (by simp [hb])
    · cases h
    · cases h

/-- Issuing accesses is the step on the first of them with the others pending. -/
theorem issueAccesses_eq_step {a : Access} {as : List Access} {s : State} (ha : a.startsCommand = false) :
    issueAccesses (a :: as) s = step (s.dequeue ((a :: as).map .access ++ s.hostQueue)) := by
  rw [List.map_cons, List.cons_append, step_access ha]
  rfl

/-- A program of accesses that ends in a CTRL write: issuing it answers a next state, and the steps that are left, one an access,
end in the command's state. -/
theorem issueAccesses_completes {as : List Access} {w : Word} {s u v : State} (hne : as ≠ [])
    (h : hostAccesses as s = .next u) (hc : ∀ a ∈ as, a.startsCommand = false)
    (hv : exec (decodeCommandWord (le32 (wordByte w 0) (wordByte w 1) (wordByte w 2) (wordByte w 3)))
      (u.respond .done) = .next v) :
    ∃ t, issueAccesses (as ++ [.store .word 0x000#12 w]) s = .next t ∧
      t.hostQueue.length = s.hostQueue.length + as.length ∧ steps as.length t = .next v := by
  obtain ⟨a, rest, rfl⟩ := List.exists_cons_of_ne_nil hne
  have hrun := run_accesses h hc 1 (.access (.store .word 0x000#12 w) :: s.hostQueue)
  have hq : u.dequeue s.hostQueue = u := by rw [← hostAccesses_hostQueue h]; rfl
  have hend : steps 1 (u.dequeue (.access (.store .word 0x000#12 w) :: s.hostQueue)) = .next v := by
    have hstep : step (u.dequeue (.access (.store .word 0x000#12 w) :: s.hostQueue)) = .next v := by
      rw [step_ctrl, hq, hv]
    rw [steps_succ_of_next hstep, steps_zero]
  rw [hend] at hrun
  simp only [hostAccesses] at h
  split at h
  · rename_i b hb
    refine ⟨b.willIssue (rest ++ [.store .word 0x000#12 w]), ?_, ?_, ?_⟩
    · have hi := hostAccess_dequeue hb ((rest ++ [Access.store .word 0x000#12 w]).map .access ++ s.hostQueue)
      simpa [issueAccesses, State.willIssue, State.dequeue, hostAccess_hostQueue hb] using hi
    · simp [hostAccess_hostQueue hb]; omega
    · have hstep : step
          (s.dequeue ((a :: rest).map .access ++ .access (.store .word 0x000#12 w) :: s.hostQueue)) =
          .next (b.willIssue (rest ++ [.store .word 0x000#12 w])) := by
        rw [List.map_cons, List.cons_append, step_access (hc a (by simp)), hostAccess_dequeue hb]
        simp [State.willIssue, State.dequeue, hostAccess_hostQueue hb]
      rw [List.length_cons, steps_succ_of_next hstep] at hrun
      exact hrun
  · cases h
  · cases h

/-! ### Writes that the map allows -/

theorem windowOffset_toNat {a : Nat} (h : a < 0xFFF) : (windowOffset a).toNat = a := by
  unfold windowOffset
  rw [BitVec.toNat_ofNat, Nat.min_eq_left (by omega)]
  exact Nat.mod_eq_of_lt (by omega)

theorem regionOf_txBuf {off : Offset} (h : 0x400 ≤ off.toNat ∧ off.toNat < 0x504) : regionOf off = .txBuf := by
  unfold regionOf
  have h1 : ¬ off.toNat < 0x024 := by omega
  have h2 : ¬ off.toNat < 0x400 := by omega
  simp [h1, h2, h.2]

theorem regionOf_rxBuf {off : Offset} (h : 0x800 ≤ off.toNat ∧ off.toNat < 0x904) : regionOf off = .rxBuf := by
  unfold regionOf
  have h1 : ¬ off.toNat < 0x024 := by omega
  have h2 : ¬ off.toNat < 0x400 := by omega
  have h3 : ¬ off.toNat < 0x504 := by omega
  have h4 : ¬ off.toNat < 0x800 := by omega
  simp [h1, h2, h3, h4, h.2]

/-- `st.b` inside TX_BUF or RX_BUF stores the byte (20_memory R54, R55). -/
theorem hostAccess_byte {a : Nat} {b : Byte} {s : State}
    (h : (0x400 ≤ a ∧ a < 0x504) ∨ (0x800 ≤ a ∧ a < 0x904)) :
    hostAccess (.store .byte (windowOffset a) (b.setWidth 32)) s = .next ((s.writeBytes a [b]).respond .done) := by
  have hn : (windowOffset a).toNat = a := windowOffset_toNat (by omega)
  have hr : regionOf (windowOffset a) = .txBuf ∨ regionOf (windowOffset a) = .rxBuf := by
    rcases h with h | h
    · exact .inl (regionOf_txBuf (by omega))
    · exact .inr (regionOf_rxBuf (by omega))
  have hb : wordByte (b.setWidth 32) 0 = b := by
    unfold wordByte
    apply BitVec.eq_of_getLsbD_eq
    intro i hi
    have h32 : i < 32 := by omega
    simp [hi, h32]
  have ha : storeAllowed .byte (windowOffset a) (b.setWidth 32) = true := by
    rcases hr with hr | hr <;> simp [storeAllowed, aligned, AccessSize.bytes, hr, Nat.mod_one]
  simp only [hostAccess, hostStore]
  rw [if_pos ha]
  rcases hr with hr | hr <;> rw [hr] <;> simp [hn, AccessSize.bytes, wordBytes, hb]

theorem Memory.write_cons (m : Memory) (a : Nat) (b : Byte) (bs : List Byte) :
    (m.write a [b]).write (a + 1) bs = m.write a (b :: bs) := by
  unfold Memory.write
  simp only [cellsFrom, List.filter_append, List.filter_filter, List.length_cons, List.length_nil]
  have e1 : (m.filter fun c => decide (c.1 < a + 1) && decide (c.1 < a)) = m.filter fun c => decide (c.1 < a) := by
    apply List.filter_congr; intro c _; by_cases h : c.1 < a
    · have h1 : c.1 < a + 1 := by omega
      simp [h, h1]
    · simp [h]
  have e2 : (m.filter fun c => decide (c.1 < a + 1) && decide (a + (0 + 1) ≤ c.1)) = [] := by
    rw [List.filter_eq_nil_iff]; intro c _; simp
  have e3 : (m.filter fun c => decide (a + 1 + bs.length ≤ c.1) && decide (c.1 < a)) = [] := by
    rw [List.filter_eq_nil_iff]; intro c _; simp; omega
  have e4 : (m.filter fun c => decide (a + 1 + bs.length ≤ c.1) && decide (a + (0 + 1) ≤ c.1)) =
      m.filter fun c => decide (a + (bs.length + 1) ≤ c.1) := by
    apply List.filter_congr; intro c _
    by_cases h : a + (bs.length + 1) ≤ c.1
    · have h1 : a + 1 + bs.length ≤ c.1 := by omega
      have h2 : a + (0 + 1) ≤ c.1 := by omega
      simp [h, h1, h2]
    · have h1 : ¬ a + 1 + bs.length ≤ c.1 := by omega
      simp [h, h1]
  have e5 : a < a + 1 + bs.length := by omega
  rw [e1, e2, e3, e4]
  simp [e5]

theorem State.writeBytes_cons (s : State) (a : Nat) (b : Byte) (bs : List Byte) :
    (s.writeBytes a [b]).writeBytes (a + 1) bs = s.writeBytes a (b :: bs) := by
  simp [State.writeBytes, Memory.write_cons]

/-- A run of `st.b` inside TX_BUF or RX_BUF stores the run. -/
theorem byteStores_run {bs : List Byte} {a : Nat} {s : State} (hne : bs ≠ [])
    (h : (0x400 ≤ a ∧ a + bs.length ≤ 0x504) ∨ (0x800 ≤ a ∧ a + bs.length ≤ 0x904)) :
    hostAccesses (byteStores a bs) s = .next ((s.writeBytes a bs).respond .done) := by
  induction bs generalizing a s with
  | nil => exact absurd rfl hne
  | cons b bs ih =>
    simp only [List.length_cons] at h
    rw [byteStores, hostAccesses_cons_of_next (hostAccess_byte (by omega))]
    by_cases hb : bs = []
    · subst hb; rfl
    · rw [ih hb (by omega), ← State.writeBytes_cons s a b bs]
      rfl

/-- The store of ENC_HDR (10_state R26). -/
theorem hostAccess_encHdr (v : Word) (s : State) :
    hostAccess (.store .word 0x008#12 v) s = .next { s with encHdr := v, response := .done } := rfl

/-- The store of RX_LEN within its range (20_memory R58). -/
theorem hostAccess_rxLen {v : Word} {s : State} (h : v.toNat ≤ 260) :
    hostAccess (.store .word 0x010#12 v) s = .next { s with rxLen := v, response := .done } := by
  have ha : storeAllowed .word 0x010#12 v = true := by
    have hr : regionOf 0x010#12 = .control .rxLen := by decide
    simp [storeAllowed, hr, h, aligned, AccessSize.bytes]
  simp only [hostAccess, hostStore]
  rw [if_pos ha]
  rfl

theorem byteStores_startsCommand {base : Nat} {bs : List Byte} {a : Access} (h : a ∈ byteStores base bs) :
    a.startsCommand = false := by
  induction bs generalizing base with
  | nil => cases h
  | cons b bs ih =>
    rcases List.mem_cons.mp h with rfl | h
    · rfl
    · exact ih h

theorem byteStores_length (base : Nat) (bs : List Byte) : (byteStores base bs).length = bs.length := by
  induction bs generalizing base with
  | nil => rfl
  | cons b bs ih => simp [byteStores, ih]

/-- A helper whose payload stores complete runs ENCODE on the state they leave, with ENC_HDR written. -/
theorem buildFrame_completes {stores : List Access} {header : Word} {s u : State} (h : hostAccesses stores s = .next u)
    (hc : ∀ a ∈ stores, a.startsCommand = false) :
    ∃ t, buildFrame stores header s = .next t ∧ t.hostQueue.length = s.hostQueue.length + (stores.length + 1) ∧
      steps (stores.length + 1) t =
        .next (encodeCommand 0#2 { u with encHdr := header, response := .done }) := by
  have hu : hostAccesses (stores ++ [.store .word 0x008#12 header]) s = .next { u with encHdr := header, response := .done } := by
    rw [hostAccesses_append_of_next h, hostAccesses_cons_of_next (hostAccess_encHdr header u), hostAccesses_nil]
  have hc' : ∀ a ∈ stores ++ [.store .word 0x008#12 header], a.startsCommand = false := by
    intro a ha
    rcases List.mem_append.mp ha with ha | ha
    · exact hc a ha
    · rw [List.mem_singleton.mp ha]; rfl
  have hw : exec (decodeCommandWord (le32 (wordByte 0x1#32 0) (wordByte 0x1#32 1) (wordByte 0x1#32 2) (wordByte 0x1#32 3)))
      (State.respond { u with encHdr := header, response := .done } .done) =
        .next (encodeCommand 0#2 { u with encHdr := header, response := .done }) := by
    rw [show decodeCommandWord (le32 (wordByte 0x1#32 0) (wordByte 0x1#32 1) (wordByte 0x1#32 2) (wordByte 0x1#32 3)) =
      .encode 0#2 by decide]
    rfl
  obtain ⟨t, ht, hl, hr⟩ := issueAccesses_completes (by simp) hu hc' hw
  rw [List.length_append, List.length_singleton] at hl hr
  refine ⟨t, ?_, hl, hr⟩
  simpa [buildFrame, List.append_assoc] using ht

/-- RECV of up to 260 bytes stores them at RX[0..] and sets RX_LEN (30_encoding R90). -/
theorem receiveAccesses_run {bytes : List Byte} {s : State} (h : bytes.length ≤ 260) :
    ∃ m, hostAccesses (receiveAccesses bytes) s =
        .next { s with mem := m, rxLen := BitVec.ofNat 32 bytes.length, response := .done } ∧
      m = if bytes = [] then s.mem else s.mem.write 0x800 bytes := by
  have hl : (BitVec.ofNat 32 bytes.length).toNat ≤ 260 := by
    rw [BitVec.toNat_ofNat, Nat.mod_eq_of_lt (by omega)]; exact h
  refine ⟨_, ?_, rfl⟩
  unfold receiveAccesses rxBase
  by_cases hne : bytes = []
  · subst hne; rfl
  · rw [hostAccesses_append_of_next (byteStores_run hne (by omega)), hostAccesses_cons_of_next (hostAccess_rxLen hl),
      hostAccesses_nil, if_neg hne]
    rfl

theorem receiveAccesses_startsCommand {bytes : List Byte} {a : Access} (h : a ∈ receiveAccesses bytes) :
    a.startsCommand = false := by
  rcases List.mem_append.mp h with h | h
  · exact byteStores_startsCommand h
  · rw [List.mem_singleton.mp h]; rfl

theorem receiveAccesses_length (bytes : List Byte) : (receiveAccesses bytes).length = bytes.length + 1 := by
  simp [receiveAccesses, byteStores_length]

/-- A received frame of 1 to 260 bytes is decoded by the command word that carries the selector CTRL holds. -/
theorem receiveAndDecode_completes {bytes : List Byte} {s v : State} (hne : bytes ≠ []) (h : bytes.length ≤ 260)
    (hv : exec (decodeCommandWord (le32 (wordByte (commandWord 2#3 s.ctrlSel) 0) (wordByte (commandWord 2#3 s.ctrlSel) 1)
        (wordByte (commandWord 2#3 s.ctrlSel) 2) (wordByte (commandWord 2#3 s.ctrlSel) 3)))
      { s.writeBytes 0x800 bytes with rxLen := BitVec.ofNat 32 bytes.length, response := .done } = .next v) :
    ∃ t, receiveAndDecode bytes s = .next t ∧ t.hostQueue.length = s.hostQueue.length + (bytes.length + 1) ∧
      steps (bytes.length + 1) t = .next v := by
  obtain ⟨m, hm, rfl⟩ := receiveAccesses_run (s := s) h
  rw [if_neg hne] at hm
  have hne' : receiveAccesses bytes ≠ [] := by simp [receiveAccesses]
  obtain ⟨t, ht, hl, hr⟩ := issueAccesses_completes (w := commandWord 2#3 s.ctrlSel) hne' hm
    (fun a ha => receiveAccesses_startsCommand ha) hv
  rw [receiveAccesses_length] at hl hr
  exact ⟨t, ht, hl, hr⟩

/-! ### Handing a frame over -/

/-- `ld.b` inside TX_BUF answers the byte (20_memory R54, R55). -/
theorem hostLoad_tx {i : Nat} {s : State} (h : i < 260) :
    hostLoad .byte (windowOffset (txBase + i)) s = .next (s.respond (.data ((s.tx i).setWidth 32))) := by
  have hn : (windowOffset (txBase + i)).toNat = txBase + i := windowOffset_toNat (by unfold txBase; omega)
  have hr : regionOf (windowOffset (txBase + i)) = .txBuf := regionOf_txBuf (by rw [hn]; unfold txBase; omega)
  have ha : loadAllowed .byte (windowOffset (txBase + i)) = true := by
    simp [loadAllowed, aligned, AccessSize.bytes, hr, Nat.mod_one]
  unfold hostLoad
  rw [if_pos ha]
  simp only [hr, hn]
  rw [show s.readBuffer .byte (txBase + i) = (s.tx i).setWidth 32 by simp [State.readBuffer, le32, State.tx]]

/-- A SEND with bytes left to read reads the next one. -/
theorem sendNext_read {read : List Byte} {s : State} (h : read.length < s.txLen.toNat) (hl : read.length < 260) :
    sendNext read s = .next { s with
      response := .data ((s.tx read.length).setWidth 32), hostQueue := .send (read ++ [s.tx read.length]) :: s.hostQueue } := by
  unfold sendNext
  rw [if_pos h, hostLoad_tx hl]
  simp [State.keepSending, State.respond]

/-- A SEND with no byte left to read hands over the bytes read. -/
theorem sendNext_done {read : List Byte} {s : State} (h : s.txLen.toNat ≤ read.length) :
    sendNext read s = .next { s with wire := s.wire ++ [read] } := by
  unfold sendNext
  rw [if_neg (by omega)]

end Sys2Proof.Machine
end

