-- ==== Sys2Proof/Laws/PerInstr.lean ====
section
/-!
SUPPORT. What holds of every instruction, one lemma per constructor: an encoding is a whole instruction, at least a command word
or a frame header, and at most the longest frame of 260 bytes.
-/

namespace Sys2Proof.Laws

/-- A well-formed instruction's encoding is 4 to 260 bytes long: a command word is "4 bytes" (30_encoding R83), a frame row
matches the first four bytes (R89), MAX_FRAME is 260 (00_scope R9). -/
def EncodingFits.Statement (i : Instr) : Prop :=
  i.wellFormed = true → 4 ≤ (encode i).length ∧ (encode i).length ≤ Config.maxFrame

theorem frameBytes_length (dir cmd reg : Byte) (payload : List Byte) :
    (frameBytes dir cmd reg payload).length = payload.length + 5 := by
  simp [frameBytes]

theorem wordBytes_length (w : Word) : (wordBytes w).length = 4 := rfl

theorem EncodingFits.nop (sel : BitVec 2) : EncodingFits.Statement (.nop sel) := fun _ => by
  simp [Sys2Proof.encode, wordBytes_length, Config.maxFrame]

theorem EncodingFits.encode (sel : BitVec 2) : EncodingFits.Statement (.encode sel) := fun _ => by
  simp [Sys2Proof.encode, wordBytes_length, Config.maxFrame]

theorem EncodingFits.decodeV : EncodingFits.Statement .decodeV := fun _ => by
  simp [Sys2Proof.encode, wordBytes_length, Config.maxFrame]

theorem EncodingFits.decodeI : EncodingFits.Statement .decodeI := fun _ => by
  simp [Sys2Proof.encode, wordBytes_length, Config.maxFrame]

theorem EncodingFits.decodeP : EncodingFits.Statement .decodeP := fun _ => by
  simp [Sys2Proof.encode, wordBytes_length, Config.maxFrame]

theorem EncodingFits.decodeIllegalSel : EncodingFits.Statement .decodeIllegalSel := fun _ => by
  simp [Sys2Proof.encode, wordBytes_length, Config.maxFrame]

theorem EncodingFits.verify (sel : BitVec 2) : EncodingFits.Statement (.verify sel) := fun _ => by
  simp [Sys2Proof.encode, wordBytes_length, Config.maxFrame]

theorem EncodingFits.reservedOp (op : BitVec 3) (sel : BitVec 2) : EncodingFits.Statement (.reservedOp op sel) := fun _ => by
  simp [Sys2Proof.encode, wordBytes_length, Config.maxFrame]

theorem EncodingFits.encFrame (dir cmd reg : Byte) (payload : List Byte) :
    EncodingFits.Statement (.encFrame dir cmd reg payload) := fun h => by
  simp only [Instr.wellFormed, Config.maxPlen, Bool.and_eq_true] at h
  have hlen := of_decide_eq_true h.1
  simp [Sys2Proof.encode, frameBytes_length, Config.maxFrame]
  omega

theorem EncodingFits.qGet (reg : Byte) : EncodingFits.Statement (.qGet reg) := fun _ => by
  simp [Sys2Proof.encode, frameBytes_length, Config.maxFrame]

theorem EncodingFits.sFloat (reg : Byte) (bits : Word) : EncodingFits.Statement (.sFloat reg bits) := fun _ => by
  simp [Sys2Proof.encode, frameBytes_length, wordBytes_length, Config.maxFrame]

theorem EncodingFits.sByte (reg : Byte) (value : Byte) : EncodingFits.Statement (.sByte reg value) := fun _ => by
  simp [Sys2Proof.encode, frameBytes_length, Config.maxFrame]

theorem EncodingFits.hConnect (hh : Byte) (payload : Byte) : EncodingFits.Statement (.hConnect hh payload) := fun _ => by
  simp [Sys2Proof.encode, frameBytes_length, Config.maxFrame]

theorem EncodingFits.hBaud (hh : Byte) (index : Byte) : EncodingFits.Statement (.hBaud hh index) := fun _ => by
  simp [Sys2Proof.encode, frameBytes_length, Config.maxFrame]

theorem EncodingFits.hDisconnect (hh : Byte) : EncodingFits.Statement (.hDisconnect hh) := fun _ => by
  simp [Sys2Proof.encode, frameBytes_length, Config.maxFrame]

theorem EncodingFits.respSetv (len : Byte) (body : List Byte) : EncodingFits.Statement (.respSetv len body) := fun h => by
  simp [Instr.wellFormed, bodyFits, Config.maxFrame] at h
  simp [Sys2Proof.encode, Config.maxFrame]; omega

theorem EncodingFits.respSeti (len : Byte) (body : List Byte) : EncodingFits.Statement (.respSeti len body) := fun h => by
  simp [Instr.wellFormed, bodyFits, Config.maxFrame] at h
  simp [Sys2Proof.encode, Config.maxFrame]; omega

theorem EncodingFits.respTelem (len : Byte) (body : List Byte) : EncodingFits.Statement (.respTelem len body) := fun h => by
  simp [Instr.wellFormed, bodyFits, Config.maxFrame] at h
  simp [Sys2Proof.encode, Config.maxFrame]; omega

theorem EncodingFits.respModel (len : Byte) (body : List Byte) : EncodingFits.Statement (.respModel len body) := fun h => by
  simp [Instr.wellFormed, bodyFits, Config.maxFrame] at h
  simp [Sys2Proof.encode, Config.maxFrame]; omega

theorem EncodingFits.respHwver (len : Byte) (body : List Byte) : EncodingFits.Statement (.respHwver len body) := fun h => by
  simp [Instr.wellFormed, bodyFits, Config.maxFrame] at h
  simp [Sys2Proof.encode, Config.maxFrame]; omega

theorem EncodingFits.respFwver (len : Byte) (body : List Byte) : EncodingFits.Statement (.respFwver len body) := fun h => by
  simp [Instr.wellFormed, bodyFits, Config.maxFrame] at h
  simp [Sys2Proof.encode, Config.maxFrame]; omega

theorem EncodingFits.respOther (reg : Byte) (len : Byte) (body : List Byte) : EncodingFits.Statement (.respOther reg len body) := fun h => by
  simp [Instr.wellFormed, bodyFits, Config.maxFrame] at h
  simp [Sys2Proof.encode, Config.maxFrame]; omega

end Sys2Proof.Laws
end

