-- ==== Sys2Proof/Tests/Slice0.lean ====
section
/-!
SUPPORT. Our own tests: each encoding written out from spec/30_encoding, the checks of WellFormed, single commands and accesses
with the values of spec/95_test_vectors (named per test), and for each statement with hypotheses a state that meets them.
-/

section

open Sys2Proof Sys2Proof.Machine

/-! ### Small states -/

/-- The outcome is a next state with this property. -/
def Test.next (o : Host.Outcome State Fault Refusal) (p : State → Bool) : Bool :=
  match o with
  | .next s => p s
  | _ => false

/-- The outcome is the fault BusError(off). -/
def Test.faults (o : Host.Outcome State Fault Refusal) (off : Offset) : Bool :=
  match o with
  | .fault (.busError a) => a == off
  | _ => false

/-- Reset, then these bytes received in RX_BUF with RX_LEN = n. -/
def Test.rx (n : Nat) (bytes : List Byte) : State :=
  { State.reset with mem := cellsFrom 0x800 bytes, rxLen := BitVec.ofNat 32 n }

/-- Reset, then this ENC_HDR and this payload at TX[4..]. -/
def Test.tx (header : Word) (payload : List Byte) : State :=
  { State.reset with mem := cellsFrom 0x404 payload, encHdr := header }

/-- exec and the steps of the accesses that it leaves pending. -/
def Test.completed (n : Nat) (i : Instr) (s : State) : Host.Outcome State Fault Refusal :=
  match exec i s with
  | .next t => steps n t
  | .fault r => .fault r
  | .refused r => .refused r

/-- Reset with these operations pending. -/
def Test.pending (ops : List HostOp) : State := { State.reset with hostQueue := ops }

/-- 95_test_vectors S1: the telemetry frame. -/
def Test.telemetry : List Byte :=
  [0xF0#8, 0xA1#8, 0xC3#8, 0x0C#8, 0xA4#8, 0x70#8, 0x45#8, 0x41#8, 0x00#8, 0x00#8, 0xC0#8, 0x3F#8, 0x7B#8, 0x14#8, 0x94#8, 0x41#8, 0xCC#8]

/-- 95_test_vectors S2: the model-name frame. -/
def Test.modelName : List Byte := [0xF0#8, 0xA1#8, 0xDE#8, 0x06#8, 0x41#8, 0x42#8, 0x43#8, 0x00#8, 0x45#8, 0x46#8, 0x35#8]

/-! ### Decoding: a word of every row, written out from 30_encoding R83-R85 and R91 -/

theorem test_decode_nop :
    decode .ctrl [0b00110000#8, 0x00#8, 0x00#8, 0x00#8] = .instr (.nop 0b11#2) [] := by decide

theorem test_decode_encode :
    decode .ctrl [0b00010001#8, 0x00#8, 0x00#8, 0x00#8] = .instr (.encode 0b01#2) [] := by decide

theorem test_decode_decodeV :
    decode .ctrl [0b00000010#8, 0x00#8, 0x00#8, 0x00#8] = .instr (.decodeV) [] := by decide

theorem test_decode_decodeI :
    decode .ctrl [0b00010010#8, 0x00#8, 0x00#8, 0x00#8] = .instr (.decodeI) [] := by decide

theorem test_decode_decodeP :
    decode .ctrl [0b00100010#8, 0x00#8, 0x00#8, 0x00#8] = .instr (.decodeP) [] := by decide

theorem test_decode_decodeIllegalSel :
    decode .ctrl [0b00110010#8, 0x00#8, 0x00#8, 0x00#8] = .instr (.decodeIllegalSel) [] := by decide

theorem test_decode_verify :
    decode .ctrl [0b00100011#8, 0x00#8, 0x00#8, 0x00#8] = .instr (.verify 0b10#2) [] := by decide

theorem test_decode_reservedOp :
    decode .ctrl [0b00010110#8, 0x00#8, 0x00#8, 0x00#8] = .instr (.reservedOp 0b110#3 0b01#2) [] := by decide

/-- 95_test_vectors BV5: the word 0xFFFFFFC9. -/
theorem test_decode_ignored_bits :
    decode .ctrl [0b11001001#8, 0xFF#8, 0xFF#8, 0xFF#8] = .instr (.encode 0b00#2) [] := by decide

theorem test_decode_encFrame :
    decode .frame [0x00#8, 0xB1#8, 0xFF#8, 0x01#8, 0x01#8, 0x01#8] = .instr (.encFrame 0x00#8 0xB1#8 0xFF#8 [0x01#8]) [] := by decide

theorem test_decode_qGet :
    decode .frame [0xF1#8, 0xA1#8, 0xDE#8, 0x00#8, 0xDE#8] = .instr (.qGet 0xDE#8) [] := by decide

theorem test_decode_sFloat :
    decode .frame [0xF1#8, 0xB1#8, 0xC2#8, 0x04#8, 0x00#8, 0x00#8, 0xC0#8, 0x3F#8, 0xC5#8] = .instr (.sFloat 0xC2#8 0x3FC00000#32) [] := by decide

theorem test_decode_sByte :
    decode .frame [0xF1#8, 0xB1#8, 0xDB#8, 0x01#8, 0x01#8, 0xDD#8] = .instr (.sByte 0xDB#8 0x01#8) [] := by decide

theorem test_decode_hConnect :
    decode .frame [0xF1#8, 0xC1#8, 0x00#8, 0x01#8, 0x01#8, 0x02#8] = .instr (.hConnect 0x00#8 0x01#8) [] := by decide

theorem test_decode_hBaud :
    decode .frame [0xF1#8, 0xB0#8, 0x00#8, 0x01#8, 0x04#8, 0x05#8] = .instr (.hBaud 0x00#8 0x04#8) [] := by decide

theorem test_decode_hDisconnect :
    decode .frame [0xF1#8, 0xC1#8, 0x00#8, 0x00#8, 0x00#8] = .instr (.hDisconnect 0x00#8) [] := by decide

theorem test_decode_respSetv :
    decode .frame [0xF0#8, 0xA1#8, 0xC1#8, 0x02#8, 0x7E#8, 0x7F#8, 0xDD#8] = .instr (.respSetv 0x02#8 [0x7E#8, 0x7F#8, 0xDD#8]) [] := by decide

theorem test_decode_respSeti :
    decode .frame [0xF0#8, 0xA1#8, 0xC2#8, 0x02#8, 0x7E#8, 0x7F#8, 0xDD#8] = .instr (.respSeti 0x02#8 [0x7E#8, 0x7F#8, 0xDD#8]) [] := by decide

theorem test_decode_respTelem :
    decode .frame [0xF0#8, 0xA1#8, 0xC3#8, 0x02#8, 0x7E#8, 0x7F#8, 0xDD#8] = .instr (.respTelem 0x02#8 [0x7E#8, 0x7F#8, 0xDD#8]) [] := by decide

theorem test_decode_respModel :
    decode .frame [0xF0#8, 0xA1#8, 0xDE#8, 0x02#8, 0x7E#8, 0x7F#8, 0xDD#8] = .instr (.respModel 0x02#8 [0x7E#8, 0x7F#8, 0xDD#8]) [] := by decide

theorem test_decode_respHwver :
    decode .frame [0xF0#8, 0xA1#8, 0xDF#8, 0x02#8, 0x7E#8, 0x7F#8, 0xDD#8] = .instr (.respHwver 0x02#8 [0x7E#8, 0x7F#8, 0xDD#8]) [] := by decide

theorem test_decode_respFwver :
    decode .frame [0xF0#8, 0xA1#8, 0xE0#8, 0x02#8, 0x7E#8, 0x7F#8, 0xDD#8] = .instr (.respFwver 0x02#8 [0x7E#8, 0x7F#8, 0xDD#8]) [] := by decide

theorem test_decode_respOther :
    decode .frame [0xF0#8, 0xA1#8, 0xDB#8, 0x02#8, 0x01#8, 0x00#8, 0xDE#8] = .instr (.respOther 0xDB#8 0x02#8 [0x01#8, 0x00#8, 0xDE#8]) [] := by decide

theorem test_decode_refuses_short_command :
    decode .ctrl [0x01#8, 0x00#8] = .refused .shortCommand := by decide

theorem test_decode_refuses_short_header :
    decode .frame [0xF1#8, 0xA1#8, 0xDE#8] = .refused .shortHeader := by decide

theorem test_decode_refuses_short_payload :
    decode .frame [0xF1#8, 0xB1#8, 0xC1#8, 0x04#8, 0x00#8] = .refused .shortPayload := by decide

theorem test_table_word_of_a_command_row :
    decodeTableWord 32 0x00000032 = some .decodeIllegalSel := by decide

theorem test_table_word_of_a_frame_row :
    decodeTableWord 32 0xF1C10001 = some (.hConnect 0x00#8 0x00#8) := by decide +kernel

theorem test_table_word_runs_as_first_step :
    Test.next (step (State.reset.withFetchWord 32 0xF1B10004)) (fun s => s.txBytes 4 4 == [0x00#8, 0x00#8, 0x00#8, 0x00#8] &&
        s.hostQueue == [.access (.store .word 0x008#12 0x0400B1F1#32), .access (.store .word 0x000#12 0x1#32)]) = true := by decide +kernel

/-! ### WellFormed refuses an ill-formed term of each check -/

theorem test_illformed_reserved_op :
    Instr.wellFormed (.reservedOp 3#3 0#2) = false := by decide

theorem test_illformed_specific_row :
    Instr.wellFormed (.encFrame 0xF1#8 0xA1#8 0xDE#8 []) = false := by decide

theorem test_illformed_long_payload :
    Instr.wellFormed (.encFrame 0x00#8 0x00#8 0x00#8 (List.replicate 256 0x00#8)) = false := by decide +kernel

theorem test_illformed_connect_payload :
    Instr.wellFormed (.hConnect 0x00#8 0x04#8) = false := by decide

theorem test_illformed_long_frame :
    Instr.wellFormed (.respModel 0xFF#8 (List.replicate 257 0x00#8)) = false := by decide +kernel

theorem test_illformed_table_register :
    Instr.wellFormed (.respOther 0xC1#8 0x00#8 [0x00#8]) = false := by decide

theorem test_wellformed_longest_frame :
    Instr.wellFormed (.respOther 0xDB#8 0xFF#8 (List.replicate 256 0x00#8)) = true := by decide +kernel

/-! ### Commands (95_test_vectors) -/

/-- R175's example. -/
theorem test_nop_clears_status :
    Test.next (exec (.nop 3#2) { State.reset with status := 0x230#32 })
      (fun s => s.status == 0#32 && s.ctrl == 0x30#32) = true := by decide

/-- BV3. -/
theorem test_reserved_op_7 :
    Test.next (exec (.reservedOp 7#3 0#2) State.reset)
      (fun s => s.status == 0x703#32) = true := by decide

/-- BV1. -/
theorem test_illegal_selector :
    Test.next (exec .decodeIllegalSel State.reset)
      (fun s => s.status == 0x203#32 && s.ctrl == 0x32#32) = true := by decide

/-- EV4. -/
theorem test_encode_set_voltage :
    Test.next (exec (.encode 0#2) (Test.tx 0x04C1B1F1#32 [0x00#8, 0x00#8, 0x40#8, 0x41#8]))
      (fun s => s.txBytes 0 9 == [0xF1#8, 0xB1#8, 0xC1#8, 0x04#8, 0x00#8, 0x00#8, 0x40#8, 0x41#8, 0x46#8] &&
        s.txLen == 9#32 && s.csum == 0x46#32 && s.status == 0x100#32) = true := by decide

/-- EV16: the checksum is TX[259]. -/
theorem test_encode_longest_frame :
    Test.next (exec (.encode 0#2) (Test.tx 0xFFFFB1F1#32 (List.replicate 255 0xFF#8)))
      (fun s => s.tx 259 == 0xFF#8 && s.txLen == 260#32) = true := by decide +kernel

/-- VV1. -/
theorem test_verify_match :
    Test.next (exec (.verify 0#2) (Test.rx 11 Test.modelName))
      (fun s => s.status == 0x330#32 && s.csum == 0x3535#32) = true := by decide

/-- VV3. -/
theorem test_verify_short_buffer :
    Test.next (exec (.verify 0#2) (Test.rx 10 Test.modelName))
      (fun s => s.status == 0x300#32 && s.csum == 0#32) = true := by decide

/-- DV8, SEL = 0. -/
theorem test_decodeV_telemetry :
    Test.next (exec .decodeV (Test.rx 17 Test.telemetry))
      (fun s => s.status == 0x230#32 && s.resInfo == 0x00010CC3#32 && s.resVal == 0x414570A4#32) = true := by decide

/-- DV26. -/
theorem test_decodeI_corrupted_checksum :
    Test.next (exec .decodeI { Test.rx 17 Test.telemetry with mem := cellsFrom 0x800 (Test.telemetry.take 16 ++ [0xCD#8]) })
      (fun s => s.status == 0x220#32 && s.resVal == 0x3FC00000#32 && s.csum == 0xCDCC#32) = true := by decide

/-- DV8, SEL = 2. -/
theorem test_decodeP_telemetry :
    Test.next (exec .decodeP (Test.rx 17 Test.telemetry))
      (fun s => s.resInfo == 0x00030CC3#32 && s.resVal == 0x4194147B#32) = true := by decide

/-- DV14. -/
theorem test_decodeV_truncated_buffer :
    Test.next (exec .decodeV (Test.rx 9 Test.modelName))
      (fun s => s.status == 0x202#32 && s.resInfo == 0x000006DE#32 && s.dispLen == 0#32) = true := by decide

/-- DV10, for any SEL. -/
theorem test_decodeP_short_triple :
    Test.next (exec .decodeP (Test.rx 13 [0xF0#8, 0xA1#8, 0xC3#8, 0x08#8, 0xA4#8, 0x70#8, 0x45#8, 0x41#8, 0x00#8, 0x00#8, 0xC0#8, 0x3F#8, 0x64#8]))
      (fun s => s.status == 0x232#32 && s.resInfo == 0x000008C3#32) = true := by decide

/-! ### Frame rows (95_test_vectors) -/

/-- EV18. -/
theorem test_encFrame_device_direction :
    Test.next (Test.completed 5 (.encFrame 0xF0#8 0xA1#8 0xC1#8 [0x00#8, 0x00#8, 0x40#8, 0x41#8]) State.reset)
      (fun s => s.txBytes 0 9 == [0xF0#8, 0xA1#8, 0xC1#8, 0x04#8, 0x00#8, 0x00#8, 0x40#8, 0x41#8, 0x46#8] && s.encHdr == 0x04C1A1F0#32) = true := by decide

/-- EV2. -/
theorem test_qGet_telemetry :
    Test.next (Test.completed 1 (.qGet 0xC3#8) State.reset)
      (fun s => s.txBytes 0 5 == [0xF1#8, 0xA1#8, 0xC3#8, 0x00#8, 0xC3#8] && s.txLen == 5#32) = true := by decide

/-- EV5. -/
theorem test_sFloat_set_current :
    Test.next (Test.completed 2 (.sFloat 0xC2#8 0x3FC00000#32) State.reset)
      (fun s => s.txBytes 0 9 == [0xF1#8, 0xB1#8, 0xC2#8, 0x04#8, 0x00#8, 0x00#8, 0xC0#8, 0x3F#8, 0xC5#8]) = true := by decide

/-- EV14. -/
theorem test_sByte_wraps :
    Test.next (Test.completed 2 (.sByte 0xFF#8 0x01#8) State.reset)
      (fun s => s.txBytes 0 6 == [0xF1#8, 0xB1#8, 0xFF#8, 0x01#8, 0x01#8, 0x01#8] && s.csum == 1#32) = true := by decide

/-- EV11. -/
theorem test_hConnect :
    Test.next (Test.completed 2 (.hConnect 0x00#8 0x01#8) State.reset)
      (fun s => s.txBytes 0 6 == [0xF1#8, 0xC1#8, 0x00#8, 0x01#8, 0x01#8, 0x02#8]) = true := by decide

/-- EV12. -/
theorem test_hBaud :
    Test.next (Test.completed 2 (.hBaud 0x00#8 0x04#8) State.reset)
      (fun s => s.txBytes 0 6 == [0xF1#8, 0xB0#8, 0x00#8, 0x01#8, 0x04#8, 0x05#8]) = true := by decide

/-- EV13. -/
theorem test_hDisconnect :
    Test.next (Test.completed 1 (.hDisconnect 0x00#8) State.reset)
      (fun s => s.txBytes 0 5 == [0xF1#8, 0xC1#8, 0x00#8, 0x00#8, 0x00#8] && s.csum == 0#32) = true := by decide

/-- DV1. -/
theorem test_respSetv_voltage :
    Test.next (Test.completed 10 (.respSetv 0x04#8 [0x00#8, 0x00#8, 0x40#8, 0x41#8, 0x46#8]) State.reset)
      (fun s => s.status == 0x230#32 && s.resInfo == 0x000104C1#32 && s.resVal == 0x41400000#32) = true := by decide

/-- DV6. -/
theorem test_respSetv_without_checksum :
    Test.next (Test.completed 9 (.respSetv 0x04#8 [0x00#8, 0x00#8, 0x40#8, 0x41#8]) State.reset)
      (fun s => s.status == 0x200#32 && s.resVal == 0x41400000#32 && s.csum == 0#32) = true := by decide

/-- DV24. -/
theorem test_respSeti_signs_kept :
    Test.next (Test.completed 10 (.respSeti 0x04#8 [0x00#8, 0x00#8, 0x00#8, 0x80#8, 0x46#8]) State.reset)
      (fun s => s.resInfo == 0x000204C2#32 && s.resVal == 0x80000000#32) = true := by decide

/-- DV8, SEL = 2. -/
theorem test_respTelem_by_selector :
    Test.next (Test.completed 18 (.respTelem 0x0C#8 (Test.telemetry.drop 4)) { State.reset with ctrl := 0x22#32 })
      (fun s => s.resInfo == 0x00030CC3#32 && s.resVal == 0x4194147B#32 && s.ctrl == 0x22#32) = true := by decide

/-- DV15. -/
theorem test_respModel_drops_unprintable :
    Test.next (Test.completed 9 (.respModel 0x03#8 [0x1F#8, 0x20#8, 0x0A#8, 0x2A#8]) State.reset)
      (fun s => s.resInfo == 0x000403DE#32 && s.dispLen == 1#32 && s.disp 0 == 0x20#8 && s.disp 1 == 0x00#8) = true := by decide

/-- DV17. -/
theorem test_respModel_empty_is_too_short :
    Test.next (Test.completed 6 (.respModel 0x00#8 [0xDE#8]) State.reset)
      (fun s => s.status == 0x231#32 && s.resInfo == 0#32) = true := by decide

/-- DV19. -/
theorem test_respHwver :
    Test.next (Test.completed 10 (.respHwver 0x04#8 [0x56#8, 0x31#8, 0x2E#8, 0x30#8, 0xC8#8]) State.reset)
      (fun s => s.resInfo == 0x000404DF#32 && s.dispLen == 4#32 && s.disp 3 == 0x30#8) = true := by decide

/-- DV20. -/
theorem test_respFwver :
    Test.next (Test.completed 9 (.respFwver 0x03#8 [0x31#8, 0x2E#8, 0x32#8, 0x74#8]) State.reset)
      (fun s => s.resInfo == 0x000403E0#32 && s.dispLen == 3#32) = true := by decide

/-- DV22. -/
theorem test_respOther_has_no_bounds :
    Test.next (Test.completed 8 (.respOther 0xD1#8 0xFF#8 [0x00#8, 0x00#8, 0x00#8]) State.reset)
      (fun s => s.status == 0x200#32 && s.resInfo == 0x0005FFD1#32) = true := by decide

/-- 10_state R43, 30_encoding R90. -/
theorem test_respOther_first_access :
    Test.next (exec (.respOther 0xDB#8 0x01#8 [0x01#8, 0xDD#8]) State.reset)
      (fun s => s.rx 0 == 0xF0#8 && s.rxLen == 0#32 && s.status == 0#32 && s.hostQueue.length == 7 &&
        s.hostQueue.drop 5 == [.access (.store .word 0x010#12 6#32), .access (.store .word 0x000#12 0x2#32)]) = true := by decide

/-! ### Accesses (95_test_vectors 2.4) -/

/-- BV6. -/
theorem test_narrow_ctrl_write :
    Test.faults (step (Test.pending [.access (.store .half 0x000#12 0x2#32)])) 0x000#12 = true := by decide

/-- BV8. -/
theorem test_read_only_write :
    Test.faults (step (Test.pending [.access (.store .word 0x004#12 0x0#32)])) 0x004#12 = true := by decide

/-- BV9. -/
theorem test_rx_len_261 :
    Test.faults (step (Test.pending [.access (.store .word 0x010#12 261#32)])) 0x010#12 = true := by decide

/-- BV11. -/
theorem test_misaligned_read :
    Test.faults (step (Test.pending [.access (.load .word 0x402#12)])) 0x402#12 = true := by decide

/-- BV12. -/
theorem test_display_write :
    Test.faults (step (Test.pending [.access (.store .byte 0xC00#12 0x41#32)])) 0xC00#12 = true := by decide

/-- BV14. -/
theorem test_unmapped_read :
    Test.faults (step (Test.pending [.access (.load .word 0x504#12)])) 0x504#12 = true := by decide

/-- BV10. -/
theorem test_rx_len_260 :
    Test.next (step (Test.pending [.access (.store .word 0x010#12 260#32)]))
      (fun s => s.rxLen == 0x104#32) = true := by decide

/-- BV16. -/
theorem test_byte_read_of_a_word :
    Test.next (hostAccesses [.store .word 0x804#12 0x41400000#32, .load .byte 0x807#12] State.reset)
      (fun s => s.response == .data 0x41#32) = true := by decide

/-- BV13, as in P5. -/
theorem test_host_carries_on :
    Test.next (step { Test.pending [.access (.load .word 0x024#12), .wait] with hostReaction := .carryOn })
      (fun s => s.faultLog == [0x024#12] && s.response == .error 0x024#12 && s.hostQueue == [.wait]) = true := by decide

/-- 20_memory R69. -/
theorem test_receive_stores_one_byte :
    Test.next (step (Test.pending [.receive [0xF0#8, 0xA1#8]]))
      (fun s => s.rx 0 == 0xF0#8 && s.rxLen == 0#32 && s.hostQueue.length == 2) = true := by decide

/-- 60_exceptions R216. -/
theorem test_receive_of_nothing :
    Test.next (step { Test.rx 3 [] with hostQueue := [.receive []] })
      (fun s => s.rxLen == 0#32 && s.hostQueue == []) = true := by decide

/-- 20_memory R69. -/
theorem test_send_reads_one_byte :
    Test.next (step { Test.tx 0#32 [] with hostQueue := [.send [0xF1#8]], txLen := 2#32, mem := cellsFrom 0x400 [0xF1#8, 0xA1#8] })
      (fun s => s.wire == [] && s.hostQueue == [.send [0xF1#8, 0xA1#8]]) = true := by decide

/-- 20_memory R69. -/
theorem test_send_hands_over_the_frame :
    Test.next (step { Test.tx 0#32 [] with hostQueue := [.send [0xF1#8, 0xA1#8]], txLen := 2#32, mem := cellsFrom 0x400 [0xF1#8, 0xA1#8] })
      (fun s => s.wire == [[0xF1#8, 0xA1#8]]) = true := by decide

/-! ### States that meet the statements' hypotheses -/

theorem witness_EveryWellFormedInstructionDecodesFromItsEncoding :
    Instr.wellFormed (.encFrame 0xF0#8 0xA0#8 0xC1#8 (List.replicate 255 0x01#8)) = true := by decide +kernel

theorem witness_EveryWellFormedInstructionCompletes :
    Instr.wellFormed (.respTelem 0xFF#8 (List.replicate 256 0x00#8)) = true ∧ Instr.wellFormed (.hConnect 0xFF#8 0x01#8) = true := by decide +kernel

theorem witness_StepRunsTheDecodedInstruction :
    (Test.pending [.frame [0xF1#8, 0xC1#8, 0x00#8, 0x00#8]]).hostQueue = .frame [0xF1#8, 0xC1#8, 0x00#8, 0x00#8] :: [] ∧
    fetchBytes (.frame [0xF1#8, 0xC1#8, 0x00#8, 0x00#8]) = some (.frame, [0xF1#8, 0xC1#8, 0x00#8, 0x00#8]) ∧
    decode .frame [0xF1#8, 0xC1#8, 0x00#8, 0x00#8] = .instr (.hDisconnect 0x00#8) [] := by decide

theorem witness_CtrlWritePerformsItsCommand :
    (Test.pending [.access (.store .word 0x000#12 0xFFFFFFFF#32), .wait]).hostQueue =
      .access (.store .word 0x000#12 0xFFFFFFFF#32) :: [.wait] := by decide

theorem witness_OtherAccessesAreServedByTheBus :
    (Test.pending [.access (.store .word 0x008#12 1#32)]).hostQueue = .access (.store .word 0x008#12 1#32) :: [] ∧
    ∀ v : Word, Access.store .word 0x008#12 1#32 ≠ .store .word 0x000#12 v := ⟨rfl, fun v hv => by simp at hv⟩

theorem witness_NothingRunsUntilTheHostActs :
    State.reset.hostQueue = [] ∧ (Test.pending [.wait]).hostQueue = .wait :: [] := by decide

theorem witness_SendHandsOverTxBufAsItStands :
    State.hostQueue { Test.pending [.send []] with txLen := 260#32 } = .send [] :: [] ∧ State.txLen { Test.pending [.send []] with txLen := 260#32 } = 260#32 ∧
    (260#32).toNat ≤ 260 ∧ (Test.pending [.send [], .wait]).hostQueue = .send [] :: [.wait] ∧ (Test.pending [.send [], .wait]).txLen.toNat = 0 := by decide

theorem witness_ReceiveOfTooManyBytesIsABusError :
    (Test.pending [.receive (List.replicate 261 0x55#8)]).hostQueue = .receive (List.replicate 261 0x55#8) :: [] ∧
    260 < (List.replicate 261 0x55#8).length ∧ (List.replicate 2048 0x55#8).length ≤ 2048 ∧
    (Test.pending [.receive (List.replicate 261 0x55#8)]).hostReaction = .stop ∧
    State.hostReaction { Test.pending [.receive (List.replicate 261 0x55#8)] with hostReaction := .carryOn } = .carryOn := by decide +kernel

theorem witness_ReceiveFillsRxBufThenRxLen :
    (Test.pending [.receive []]).hostQueue = .receive [] :: [] ∧ ([] : List Byte).length ≤ 260 ∧
    (Test.pending [.receive (List.replicate 260 0x55#8)]).hostQueue = .receive (List.replicate 260 0x55#8) :: [] ∧
    (List.replicate 260 0x55#8).length ≤ 260 := by decide +kernel

theorem witness_ResetRestoresEveryRegister :
    (Test.pending [.reset]).hostQueue = .reset :: [] ∧ (Test.pending [.powerEvent]).hostQueue = .powerEvent :: [] := by decide

theorem witness_ConcurrentResetAndSecondAgentAreRefused :
    (Test.pending [.accessDuringReset (.load .byte 0x400#12)]).hostQueue = .accessDuringReset (.load .byte 0x400#12) :: [] ∧
    (Test.pending [.secondAgent (.load .byte 0x400#12)]).hostQueue = .secondAgent (.load .byte 0x400#12) :: [] := by decide

theorem witness_AfterResetNothingIsReceived :
    ((.decodeP, 2#2) : Instr × BitVec 2) ∈ decodeRows := by decide

theorem witness_ReservedOpReportsIllegalCommand :
    4 ≤ (4#3).toNat ∧ 4 ≤ (7#3).toNat := by decide

theorem witness_VerifyComputesTheFrameChecksum_short :
    (Test.rx 3 Test.modelName).rxLen.toNat < 4 ∧
    (Test.rx 10 Test.modelName).rxLen.toNat < 5 + ((Test.rx 10 Test.modelName).rx 3).toNat := by decide

theorem witness_VerifyComputesTheFrameChecksum_whole :
    4 ≤ (Test.rx 11 Test.modelName).rxLen.toNat ∧
    5 + ((Test.rx 11 Test.modelName).rx 3).toNat ≤ (Test.rx 11 Test.modelName).rxLen.toNat := by decide

theorem witness_ChecksumSumsModulo256 :
    (List.replicate 255 0xFF#8 : List Byte).length ≤ 255 := by decide +kernel

theorem witness_ChecksumIgnoresPayloadOrder_received :
    (Test.rx 11 [0xF0#8, 0xA1#8, 0xDE#8, 0x06#8, 0x42#8, 0x41#8, 0x43#8, 0x00#8, 0x45#8, 0x46#8, 0x35#8]).rxLen = (Test.rx 11 Test.modelName).rxLen ∧
    (Test.rx 11 [0xF0#8, 0xA1#8, 0xDE#8, 0x06#8, 0x42#8, 0x41#8, 0x43#8, 0x00#8, 0x45#8, 0x46#8, 0x35#8]).rx 2 = (Test.rx 11 Test.modelName).rx 2 ∧
    (Test.rx 11 [0xF0#8, 0xA1#8, 0xDE#8, 0x06#8, 0x42#8, 0x41#8, 0x43#8, 0x00#8, 0x45#8, 0x46#8, 0x35#8]).rx 3 = (Test.rx 11 Test.modelName).rx 3 ∧
    ((Test.rx 11 [0xF0#8, 0xA1#8, 0xDE#8, 0x06#8, 0x42#8, 0x41#8, 0x43#8, 0x00#8, 0x45#8, 0x46#8, 0x35#8]).rxBytes 4 6).Perm ((Test.rx 11 Test.modelName).rxBytes 4 6) ∧
    (Test.rx 11 [0xF0#8, 0xA1#8, 0xDE#8, 0x06#8, 0x42#8, 0x41#8, 0x43#8, 0x00#8, 0x45#8, 0x46#8, 0x35#8]).rx 10 = (Test.rx 11 Test.modelName).rx 10 := by decide

theorem witness_ChecksumIgnoresPayloadOrder_encoder :
    (Test.tx 0x02C1B1F1#32 [0x01#8, 0x02#8]).encHdr = (Test.tx 0x02C1B1F1#32 [0x02#8, 0x01#8]).encHdr ∧
    ((Test.tx 0x02C1B1F1#32 [0x01#8, 0x02#8]).txBytes 4 2).Perm ((Test.tx 0x02C1B1F1#32 [0x02#8, 0x01#8]).txBytes 4 2) := by decide

theorem witness_DecodeReportsNotAResponse :
    ((.decodeI, 1#2) : Instr × BitVec 2) ∈ decodeRows ∧
    ¬ (6 < (Test.rx 6 [0xF0#8, 0xA1#8, 0xDB#8, 0x01#8, 0x01#8, 0xDD#8]).rxLen.toNat ∧ (Test.rx 6 [0xF0#8, 0xA1#8, 0xDB#8, 0x01#8, 0x01#8, 0xDD#8]).rx 0 = 0xF0#8 ∧
      (Test.rx 6 [0xF0#8, 0xA1#8, 0xDB#8, 0x01#8, 0x01#8, 0xDD#8]).rx 1 = 0xA1#8) := by decide

theorem witness_DecodeExtractsTheEchoedFloat :
    ((.decodeI, 1#2) : Instr × BitVec 2) ∈ decodeRows ∧
    ((0xC1#8, 1#3) : Byte × BitVec 3) ∈ [(0xC1#8, 1#3), (0xC2#8, 2#3)] ∧
    6 < (Test.rx 8 [0xF0#8, 0xA1#8, 0xC1#8, 0x04#8, 0x00#8, 0x00#8, 0x40#8, 0x41#8]).rxLen.toNat ∧ (Test.rx 8 [0xF0#8, 0xA1#8, 0xC1#8, 0x04#8, 0x00#8, 0x00#8, 0x40#8, 0x41#8]).rx 0 = 0xF0#8 ∧ (Test.rx 8 [0xF0#8, 0xA1#8, 0xC1#8, 0x04#8, 0x00#8, 0x00#8, 0x40#8, 0x41#8]).rx 1 = 0xA1#8 ∧
    (Test.rx 8 [0xF0#8, 0xA1#8, 0xC1#8, 0x04#8, 0x00#8, 0x00#8, 0x40#8, 0x41#8]).rx 2 = 0xC1#8 ∧
    4 ≤ ((Test.rx 8 [0xF0#8, 0xA1#8, 0xC1#8, 0x04#8, 0x00#8, 0x00#8, 0x40#8, 0x41#8]).rx 3).toNat ∧ 4 + ((Test.rx 8 [0xF0#8, 0xA1#8, 0xC1#8, 0x04#8, 0x00#8, 0x00#8, 0x40#8, 0x41#8]).rx 3).toNat ≤ (Test.rx 8 [0xF0#8, 0xA1#8, 0xC1#8, 0x04#8, 0x00#8, 0x00#8, 0x40#8, 0x41#8]).rxLen.toNat := by decide

theorem witness_DecodeSelectsOneOfThreeTelemetryFloats :
    ((.decodeI, 1#2) : Instr × BitVec 2) ∈ decodeRows ∧
    6 < (Test.rx 16 [0xF0#8, 0xA1#8, 0xC3#8, 0x0C#8, 0xA4#8, 0x70#8, 0x45#8, 0x41#8, 0x00#8, 0x00#8, 0xC0#8, 0x3F#8, 0x7B#8, 0x14#8, 0x94#8, 0x41#8]).rxLen.toNat ∧ (Test.rx 16 [0xF0#8, 0xA1#8, 0xC3#8, 0x0C#8, 0xA4#8, 0x70#8, 0x45#8, 0x41#8, 0x00#8, 0x00#8, 0xC0#8, 0x3F#8, 0x7B#8, 0x14#8, 0x94#8, 0x41#8]).rx 0 = 0xF0#8 ∧ (Test.rx 16 [0xF0#8, 0xA1#8, 0xC3#8, 0x0C#8, 0xA4#8, 0x70#8, 0x45#8, 0x41#8, 0x00#8, 0x00#8, 0xC0#8, 0x3F#8, 0x7B#8, 0x14#8, 0x94#8, 0x41#8]).rx 1 = 0xA1#8 ∧
    (Test.rx 16 [0xF0#8, 0xA1#8, 0xC3#8, 0x0C#8, 0xA4#8, 0x70#8, 0x45#8, 0x41#8, 0x00#8, 0x00#8, 0xC0#8, 0x3F#8, 0x7B#8, 0x14#8, 0x94#8, 0x41#8]).rx 2 = 0xC3#8 ∧
    12 ≤ ((Test.rx 16 [0xF0#8, 0xA1#8, 0xC3#8, 0x0C#8, 0xA4#8, 0x70#8, 0x45#8, 0x41#8, 0x00#8, 0x00#8, 0xC0#8, 0x3F#8, 0x7B#8, 0x14#8, 0x94#8, 0x41#8]).rx 3).toNat ∧ 4 + ((Test.rx 16 [0xF0#8, 0xA1#8, 0xC3#8, 0x0C#8, 0xA4#8, 0x70#8, 0x45#8, 0x41#8, 0x00#8, 0x00#8, 0xC0#8, 0x3F#8, 0x7B#8, 0x14#8, 0x94#8, 0x41#8]).rx 3).toNat ≤ (Test.rx 16 [0xF0#8, 0xA1#8, 0xC3#8, 0x0C#8, 0xA4#8, 0x70#8, 0x45#8, 0x41#8, 0x00#8, 0x00#8, 0xC0#8, 0x3F#8, 0x7B#8, 0x14#8, 0x94#8, 0x41#8]).rxLen.toNat := by decide

theorem witness_DecodeKeepsThePrintableBytesOfAString :
    ((.decodeI, 1#2) : Instr × BitVec 2) ∈ decodeRows ∧
    (0xDF#8 : Byte) ∈ [0xDE#8, 0xDF#8, 0xE0#8] ∧
    6 < (Test.rx 7 [0xF0#8, 0xA1#8, 0xDF#8, 0x03#8, 0x7F#8, 0x20#8, 0x7E#8]).rxLen.toNat ∧ (Test.rx 7 [0xF0#8, 0xA1#8, 0xDF#8, 0x03#8, 0x7F#8, 0x20#8, 0x7E#8]).rx 0 = 0xF0#8 ∧ (Test.rx 7 [0xF0#8, 0xA1#8, 0xDF#8, 0x03#8, 0x7F#8, 0x20#8, 0x7E#8]).rx 1 = 0xA1#8 ∧
    (Test.rx 7 [0xF0#8, 0xA1#8, 0xDF#8, 0x03#8, 0x7F#8, 0x20#8, 0x7E#8]).rx 2 = 0xDF#8 ∧
    4 + ((Test.rx 7 [0xF0#8, 0xA1#8, 0xDF#8, 0x03#8, 0x7F#8, 0x20#8, 0x7E#8]).rx 3).toNat ≤ (Test.rx 7 [0xF0#8, 0xA1#8, 0xDF#8, 0x03#8, 0x7F#8, 0x20#8, 0x7E#8]).rxLen.toNat := by decide

theorem witness_DecodeLeavesOtherRegistersUnknown :
    ((.decodeI, 1#2) : Instr × BitVec 2) ∈ decodeRows ∧
    6 < (Test.rx 7 [0xF0#8, 0xA1#8, 0xD1#8, 0xFF#8, 0x00#8, 0x00#8, 0x00#8]).rxLen.toNat ∧ (Test.rx 7 [0xF0#8, 0xA1#8, 0xD1#8, 0xFF#8, 0x00#8, 0x00#8, 0x00#8]).rx 0 = 0xF0#8 ∧ (Test.rx 7 [0xF0#8, 0xA1#8, 0xD1#8, 0xFF#8, 0x00#8, 0x00#8, 0x00#8]).rx 1 = 0xA1#8 ∧
    (Test.rx 7 [0xF0#8, 0xA1#8, 0xD1#8, 0xFF#8, 0x00#8, 0x00#8, 0x00#8]).rx 2 ∉ [0xC1#8, 0xC2#8, 0xC3#8, 0xDE#8, 0xDF#8, 0xE0#8] := by decide

theorem witness_DecodeReportsTruncatedFrames_past_the_buffer :
    ((.decodeI, 1#2) : Instr × BitVec 2) ∈ decodeRows ∧
    ((0xDE#8, 0) : Byte × Nat) ∈ [(0xC1#8, 4), (0xC2#8, 4), (0xC3#8, 12), (0xDE#8, 0), (0xDF#8, 0), (0xE0#8, 0)] ∧
    6 < (Test.rx 7 [0xF0#8, 0xA1#8, 0xDE#8, 0x04#8, 0x00#8, 0x00#8, 0x00#8]).rxLen.toNat ∧ (Test.rx 7 [0xF0#8, 0xA1#8, 0xDE#8, 0x04#8, 0x00#8, 0x00#8, 0x00#8]).rx 0 = 0xF0#8 ∧ (Test.rx 7 [0xF0#8, 0xA1#8, 0xDE#8, 0x04#8, 0x00#8, 0x00#8, 0x00#8]).rx 1 = 0xA1#8 ∧
    (Test.rx 7 [0xF0#8, 0xA1#8, 0xDE#8, 0x04#8, 0x00#8, 0x00#8, 0x00#8]).rx 2 = 0xDE#8 ∧ (Test.rx 7 [0xF0#8, 0xA1#8, 0xDE#8, 0x04#8, 0x00#8, 0x00#8, 0x00#8]).rxLen.toNat < 4 + ((Test.rx 7 [0xF0#8, 0xA1#8, 0xDE#8, 0x04#8, 0x00#8, 0x00#8, 0x00#8]).rx 3).toNat := by decide

theorem witness_DecodeReportsTruncatedFrames_below_the_shape :
    ((.decodeI, 1#2) : Instr × BitVec 2) ∈ decodeRows ∧
    ((0xC3#8, 12) : Byte × Nat) ∈ [(0xC1#8, 4), (0xC2#8, 4), (0xC3#8, 12), (0xDE#8, 0), (0xDF#8, 0), (0xE0#8, 0)] ∧
    6 < (Test.rx 15 [0xF0#8, 0xA1#8, 0xC3#8, 0x0B#8, 0x00#8, 0x00#8, 0x00#8, 0x00#8, 0x00#8, 0x00#8, 0x00#8, 0x00#8, 0x00#8, 0x00#8, 0x00#8]).rxLen.toNat ∧ (Test.rx 15 [0xF0#8, 0xA1#8, 0xC3#8, 0x0B#8, 0x00#8, 0x00#8, 0x00#8, 0x00#8, 0x00#8, 0x00#8, 0x00#8, 0x00#8, 0x00#8, 0x00#8, 0x00#8]).rx 0 = 0xF0#8 ∧ (Test.rx 15 [0xF0#8, 0xA1#8, 0xC3#8, 0x0B#8, 0x00#8, 0x00#8, 0x00#8, 0x00#8, 0x00#8, 0x00#8, 0x00#8, 0x00#8, 0x00#8, 0x00#8, 0x00#8]).rx 1 = 0xA1#8 ∧
    (Test.rx 15 [0xF0#8, 0xA1#8, 0xC3#8, 0x0B#8, 0x00#8, 0x00#8, 0x00#8, 0x00#8, 0x00#8, 0x00#8, 0x00#8, 0x00#8, 0x00#8, 0x00#8, 0x00#8]).rx 2 = 0xC3#8 ∧ ((Test.rx 15 [0xF0#8, 0xA1#8, 0xC3#8, 0x0B#8, 0x00#8, 0x00#8, 0x00#8, 0x00#8, 0x00#8, 0x00#8, 0x00#8, 0x00#8, 0x00#8, 0x00#8, 0x00#8]).rx 3).toNat < 12 := by decide

theorem witness_DecodeReportsTruncatedFrames_checksum_missing :
    ((.decodeI, 1#2) : Instr × BitVec 2) ∈ decodeRows ∧
    ((0xC2#8, 4) : Byte × Nat) ∈ [(0xC1#8, 4), (0xC2#8, 4), (0xC3#8, 12), (0xDE#8, 0), (0xDF#8, 0), (0xE0#8, 0)] ∧
    6 < (Test.rx 8 [0xF0#8, 0xA1#8, 0xC2#8, 0x04#8, 0x00#8, 0x00#8, 0xC0#8, 0x3F#8]).rxLen.toNat ∧ (Test.rx 8 [0xF0#8, 0xA1#8, 0xC2#8, 0x04#8, 0x00#8, 0x00#8, 0xC0#8, 0x3F#8]).rx 0 = 0xF0#8 ∧ (Test.rx 8 [0xF0#8, 0xA1#8, 0xC2#8, 0x04#8, 0x00#8, 0x00#8, 0xC0#8, 0x3F#8]).rx 1 = 0xA1#8 ∧
    (Test.rx 8 [0xF0#8, 0xA1#8, 0xC2#8, 0x04#8, 0x00#8, 0x00#8, 0xC0#8, 0x3F#8]).rx 2 = 0xC2#8 ∧
    4 ≤ ((Test.rx 8 [0xF0#8, 0xA1#8, 0xC2#8, 0x04#8, 0x00#8, 0x00#8, 0xC0#8, 0x3F#8]).rx 3).toNat ∧ (Test.rx 8 [0xF0#8, 0xA1#8, 0xC2#8, 0x04#8, 0x00#8, 0x00#8, 0xC0#8, 0x3F#8]).rxLen.toNat = 4 + ((Test.rx 8 [0xF0#8, 0xA1#8, 0xC2#8, 0x04#8, 0x00#8, 0x00#8, 0xC0#8, 0x3F#8]).rx 3).toNat := by decide

theorem witness_DecodeAndVerifyReportTheSameChecksum :
    ((.decodeI, 1#2) : Instr × BitVec 2) ∈ decodeRows := by decide

theorem witness_BadChecksumChangesOnlyTheFlag :
    ((.decodeI, 1#2) : Instr × BitVec 2) ∈ decodeRows := by decide

theorem witness_SelectorMattersOnlyForTelemetry :
    (Test.rx 11 Test.modelName).rx 2 ≠ 0xC3#8 := by decide

theorem witness_DecodeAndVerifyReadOnlyTheFrame :
    ((.decodeI, 1#2) : Instr × BitVec 2) ∈ decodeRows ∧
    (Test.rx 12 (Test.modelName ++ [0x00#8])).rxLen = (Test.rx 12 (Test.modelName ++ [0xFF#8])).rxLen ∧
    ∀ j, j < 12 → j < 5 + ((Test.rx 12 (Test.modelName ++ [0xFF#8])).rx 3).toNat →
      (Test.rx 12 (Test.modelName ++ [0x00#8])).rx j = (Test.rx 12 (Test.modelName ++ [0xFF#8])).rx j := by decide

theorem witness_EncodeThenDecodeRoundTrip_response :
    ((.decodeI, 1#2) : Instr × BitVec 2) ∈ decodeRows ∧
    (Test.tx 0x0CC3A1F0#32 []).encDir = 0xF0#8 ∧ (Test.tx 0x0CC3A1F0#32 []).encCmd = 0xA1#8 ∧
    12 ≤ (Test.tx 0x0CC3A1F0#32 []).encPlen.toNat ∧ (Test.tx 0x0CC3A1F0#32 []).encReg = 0xC3#8 ∧
    (Test.tx 0x03C1A1F0#32 []).encPlen.toNat < 4 ∧ (Test.tx 0x03C1A1F0#32 []).encReg = 0xC1#8 := by decide

theorem witness_EncodeThenDecodeRoundTrip_shapes :
    2 ≤ (Test.tx 0x02DEA1F0#32 []).encPlen.toNat ∧ (Test.tx 0x02DEA1F0#32 []).encReg = 0xDE#8 ∧
    4 ≤ (Test.tx 0x04C2A1F0#32 []).encPlen.toNat ∧ (Test.tx 0x04C2A1F0#32 []).encReg = 0xC2#8 ∧
    (Test.tx 0x0BC3A1F0#32 []).encPlen.toNat < 12 ∧ (Test.tx 0x02DBA1F0#32 []).encReg = 0xDB#8 := by decide

theorem witness_EncodeThenDecodeRoundTrip_other :
    (Test.tx 0x02C1A1F1#32 []).encDir ≠ 0xF0#8 ∧ (Test.tx 0x02C1B1F0#32 []).encCmd ≠ 0xA1#8 ∧
    (Test.tx 0x01C1A1F0#32 []).encPlen.toNat < 2 := by decide

theorem witness_EveryCommandIsIdempotent :
    Instr.source (.encode 0#2) = .ctrl ∧ Instr.source (.reservedOp 4#3 3#2) = .ctrl := by decide

theorem witness_CommandsFollowTheWriteMatrix :
    Instr.source (.nop 0#2) = .ctrl ∧ (∀ k, Instr.nop 0#2 ≠ .encode k) ∧ (∀ k, Instr.nop 0#2 ≠ .verify k) ∧
    Instr.nop 0#2 ∉ [.decodeV, .decodeI, .decodeP] := by decide

theorem witness_ResultsIgnoreDrawsOnceInputsAreWritten_encode :
    Instr.source (.encode 0#2) = .ctrl ∧ (Test.tx 0x02C1B1F1#32 [0x01#8, 0x02#8]).payloadWritten := by
  unfold State.payloadWritten State.written
  decide

theorem witness_ResultsIgnoreDrawsOnceInputsAreWritten_decode :
    Instr.source .decodeV = .ctrl ∧ (Test.rx 11 Test.modelName).receivedWritten := by
  unfold State.receivedWritten State.written
  decide

theorem witness_GenericFrameBuildsItsFrame :
    (List.replicate 255 0xFF#8 : List Byte).length ≤ 255 ∧ ([] : List Byte).length ≤ 255 := by decide +kernel

theorem witness_OverlongPayloadIsRefused :
    255 < (List.replicate 256 0x00#8 : List Byte).length ∧
    decode .frame [0x00#8, 0xB1#8, 0xFF#8, 0x01#8, 0x01#8, 0x01#8] = .instr (.encFrame 0x00#8 0xB1#8 0xFF#8 [0x01#8]) [] := by decide +kernel

theorem witness_EchoResponsesDecodeToTheirFloat :
    4 ≤ (0x04#8).toNat ∧ (0x04#8).toNat ≤ ([] : List Byte).length + 4 ∧
    (0xFF#8).toNat ≤ (List.replicate 252 0x00#8 : List Byte).length + 4 ∧
    (List.replicate 252 0x00#8 : List Byte).length ≤ 252 ∧ State.reset.ctrlSel ≠ 3#2 := by decide +kernel

theorem witness_TelemetryResponseDecodesToTheSelectedFloat :
    12 ≤ (0x0C#8).toNat ∧ (0x0C#8).toNat ≤ ([] : List Byte).length + 12 ∧ ([] : List Byte).length ≤ 244 ∧
    State.ctrlSel { State.reset with ctrl := 0x22#32 } ≠ 3#2 := by decide

theorem witness_IdentityResponsesDecodeToStrings :
    3 ≤ (List.replicate 3 0x7F#8 : List Byte).length ∧ (List.replicate 256 0x20#8 : List Byte).length ≤ 256 ∧
    (0x03#8).toNat ≤ (List.replicate 3 0x7F#8 : List Byte).length ∧ State.reset.ctrlSel ≠ 3#2 := by decide +kernel

theorem witness_OtherResponsesDecodeToUnknown :
    3 ≤ (List.replicate 3 0x00#8 : List Byte).length ∧ (List.replicate 3 0x00#8 : List Byte).length ≤ 256 ∧
    0xE1#8 ∉ [0xC1#8, 0xC2#8, 0xC3#8, 0xDE#8, 0xDF#8, 0xE0#8] ∧ State.reset.ctrlSel ≠ 3#2 := by decide

theorem witness_ShortOrTruncatedResponsesGiveNoValue_short :
    ((.respOther 0xDB#8 0x01#8 [0x01#8, 0xDD#8], 0xDB#8) : Instr × Byte) ∈ [(.respSetv 0x01#8 [0x01#8, 0xDD#8], 0xC1#8),
      (.respOther 0xDB#8 0x01#8 [0x01#8, 0xDD#8], 0xDB#8)] ∧
    ([0x01#8, 0xDD#8] : List Byte).length ≤ 2 ∧ State.reset.ctrlSel ≠ 3#2 := by decide

theorem witness_ShortOrTruncatedResponsesGiveNoValue_truncated :
    3 ≤ ([0x00#8, 0x00#8, 0x40#8] : List Byte).length ∧ ([0x00#8, 0x00#8, 0x40#8] : List Byte).length < (0x04#8).toNat ∧
    3 ≤ ([0x00#8, 0x00#8, 0x40#8, 0x04#8] : List Byte).length ∧ (0x03#8).toNat < 4 ∧ State.reset.ctrlSel ≠ 3#2 := by decide

theorem witness_ResponsesUnderTheReservedSelectorAreIllegal :
    State.ctrlSel { State.reset with ctrl := 0x32#32 } = 3#2 ∧ (List.replicate 256 0x00#8 : List Byte).length ≤ 256 := by decide +kernel

theorem witness_FrameRowsAreTheirSingleAccesses :
    Instr.wellFormed (.respOther 0x00#8 0x00#8 []) = true ∧ Instr.source (.respOther 0x00#8 0x00#8 []) = .frame ∧
    Instr.wellFormed (.sFloat 0xC1#8 0#32) = true ∧ Instr.source (.sFloat 0xC1#8 0#32) = .frame := by decide

theorem witness_DisallowedAccessesAreBusErrors_map :
    disallowed (.load .half 0x401#12) ∧ disallowed (.load .byte 0x023#12) ∧ disallowed (.load .byte 0x024#12) ∧
    disallowed (.load .byte 0x504#12) ∧ disallowed (.load .byte 0xBFF#12) ∧ disallowed (.load .byte 0xFFF#12) := by
  simp [disallowed, unmappedOffset, AccessSize.bytes]

theorem witness_DisallowedAccessesAreBusErrors_stores :
    disallowed (.store .word 0x004#12 0#32) ∧ disallowed (.store .byte 0xCFF#12 0#32) ∧
    disallowed (.store .word 0x010#12 261#32) ∧ (260#32).toNat ≤ 260 ∧
    State.reset.hostReaction = .stop ∧ State.hostReaction { State.reset with hostReaction := .carryOn } = .carryOn := by
  simp [disallowed, unmappedOffset, readOnlyOffset, AccessSize.bytes, State.reset]

theorem witness_BusErrorPrecedesTheCommand :
    (Test.pending [.access (.store .half 0x000#12 1#32)]).hostQueue = .access (.store .half 0x000#12 1#32) :: [] ∧
    disallowed (.store .half 0x000#12 1#32) := by
  refine ⟨rfl, ?_⟩
  simp [disallowed, AccessSize.bytes]

theorem witness_BufferReadsAreLittleEndian :
    (0xCFF#12).toNat % AccessSize.byte.bytes = 0 ∧ isBufferByte (0xCFF#12).toNat = true ∧
    (0x500#12).toNat % AccessSize.word.bytes = 0 ∧ isBufferByte (0x500#12).toNat = true := by decide

theorem witness_BufferWritesStoreLittleEndianBytes :
    (0x502#12).toNat % AccessSize.half.bytes = 0 ∧ (0x502#12).toNat ≤ 0x503 ∧ 0x400 ≤ (0x502#12).toNat ∧
    (0x900#12).toNat % AccessSize.word.bytes = 0 ∧ 0x800 ≤ (0x900#12).toNat ∧ (0x900#12).toNat ≤ 0x903 := by decide

theorem witness_ControlRegistersReadAndWriteWhole :
    (260#32 : Word).toNat ≤ 260 := by decide

theorem witness_WideAccessesAreTheirByteAccesses :
    (0x500#12).toNat % AccessSize.word.bytes = 0 ∧ 0x400 ≤ (0x500#12).toNat ∧ (0x500#12).toNat ≤ 0x503 ∧
    (0x902#12).toNat % AccessSize.half.bytes = 0 ∧ 0x800 ≤ (0x902#12).toNat ∧ (0x902#12).toNat ≤ 0x903 ∧
    (0xCFE#12).toNat % AccessSize.half.bytes = 0 ∧ isBufferByte (0xCFE#12).toNat = true := by decide

/-- A legal state, other than the reset state, whose next step is a DECODE. -/
def Test.legal : State :=
  { Test.rx 11 Test.modelName with hostQueue := [.access (.store .word 0x000#12 0x2#32)] }

theorem witness_StepKeepsLegalStates : Test.legal.Legal ∧ ∃ t, step Test.legal = .next t :=
  ⟨{ mem_wf := by decide, ctrl_reserved := by decide, status_reserved := by decide, err_code := by decide,
     last_op := by decide, ok_present := by decide, ok_equal := by decide, tx_len := by decide, rx_len := by decide,
     res_info_reserved := by decide, tag_code := by decide, value_tag := by decide, disp_len := by decide,
     disp_printable := by decide, disp_zero := by decide, csum_reserved := by decide }, _, rfl⟩

end
end

section
/-!
SUPPORT. The words that commands write to CTRL, STATUS, CSUM and RES_INFO: each field reads back as it was put in, and the
reserved bits are 0 (10_state R23, R24, R25, R29, R30, R33, R38).
-/

namespace Sys2Proof.Machine

theorem ctrlWord_reserved (op : BitVec 3) (sel : BitVec 2) : ctrlWord op sel &&& 0xFFFFFFC8#32 = 0#32 := by
  revert op sel; decide

@[simp] theorem ctrlWord_op (op : BitVec 3) (sel : BitVec 2) : (ctrlWord op sel).extractLsb' 0 3 = op := by
  revert op sel; decide

theorem statusWord_reserved (err : ErrCode) (ok present : Bool) (op : BitVec 3) :
    statusWord err ok present op &&& 0xFFFFF8C0#32 = 0#32 := by
  revert op; cases err <;> cases ok <;> cases present <;> decide

theorem statusWord_err (err : ErrCode) (ok present : Bool) (op : BitVec 3) :
    (statusWord err ok present op).extractLsb' 0 4 = err.code := by
  revert op; cases err <;> cases ok <;> cases present <;> decide

theorem statusWord_ok (err : ErrCode) (ok present : Bool) (op : BitVec 3) :
    (statusWord err ok present op).getLsbD 4 = ok := by
  revert op; cases err <;> cases ok <;> cases present <;> decide

theorem statusWord_present (err : ErrCode) (ok present : Bool) (op : BitVec 3) :
    (statusWord err ok present op).getLsbD 5 = present := by
  revert op; cases err <;> cases ok <;> cases present <;> decide

theorem statusWord_op (err : ErrCode) (ok present : Bool) (op : BitVec 3) :
    (statusWord err ok present op).extractLsb' 8 3 = op := by
  revert op; cases err <;> cases ok <;> cases present <;> decide

theorem ErrCode.code_le (err : ErrCode) : err.code.toNat ≤ 3 := by
  cases err <;> decide

/-! The same, read from a state that a command reported into. -/

@[simp] theorem State.setCtrl_ctrlOp (s : State) (op : BitVec 3) (sel : BitVec 2) : (s.setCtrl op sel).ctrlOp = op :=
  ctrlWord_op op sel

@[simp] theorem State.report_ctrlOp (s : State) (err : ErrCode) (ok present : Bool) (op : BitVec 3) :
    (s.report err ok present op).ctrlOp = s.ctrlOp := rfl

@[simp] theorem State.report_err (s : State) (err : ErrCode) (ok present : Bool) (op : BitVec 3) :
    (s.report err ok present op).err = err.code := statusWord_err err ok present op

@[simp] theorem State.report_csumOk (s : State) (err : ErrCode) (ok present : Bool) (op : BitVec 3) :
    (s.report err ok present op).csumOk = ok := statusWord_ok err ok present op

@[simp] theorem State.report_csumPresent (s : State) (err : ErrCode) (ok present : Bool) (op : BitVec 3) :
    (s.report err ok present op).csumPresent = present := statusWord_present err ok present op

@[simp] theorem State.report_lastOp (s : State) (err : ErrCode) (ok present : Bool) (op : BitVec 3) :
    (s.report err ok present op).lastOp = op := statusWord_op err ok present op

theorem Tag.code_le (tag : Tag) : tag.code.toNat ≤ 5 := by
  cases tag <;> decide

theorem csumWord_reserved (received computed : Byte) : csumWord received computed &&& 0xFFFF0000#32 = 0#32 := by
  ext i hi
  interval_cases i <;> simp [csumWord]

@[simp] theorem csumWord_calc (received computed : Byte) : (csumWord received computed).extractLsb' 0 8 = computed := by
  ext i hi
  have h32 : i < 32 := by omega
  simp [csumWord, hi, h32]

@[simp] theorem csumWord_recv (received computed : Byte) : (csumWord received computed).extractLsb' 8 8 = received := by
  ext i hi
  have h32 : 8 + i < 32 := by omega
  simp [csumWord, hi, h32]

theorem resInfoWord_reserved (tag : Tag) (rlen rreg : Byte) : resInfoWord tag rlen rreg &&& 0xFFF80000#32 = 0#32 := by
  ext i hi
  interval_cases i <;> simp [resInfoWord]

@[simp] theorem resInfoWord_tag (tag : Tag) (rlen rreg : Byte) : (resInfoWord tag rlen rreg).extractLsb' 16 3 = tag.code := by
  ext i hi
  interval_cases i <;> simp [resInfoWord]

@[simp] theorem resInfoWord_rlen (tag : Tag) (rlen rreg : Byte) : (resInfoWord tag rlen rreg).extractLsb' 8 8 = rlen := by
  ext i hi
  have h32 : 8 + i < 32 := by omega
  have h16 : 8 + i < 16 := by omega
  simp [resInfoWord, hi, h32, h16]

@[simp] theorem resInfoWord_rreg (tag : Tag) (rlen rreg : Byte) : (resInfoWord tag rlen rreg).extractLsb' 0 8 = rreg := by
  ext i hi
  have h32 : i < 32 := by omega
  have h16 : i < 16 := by omega
  simp [resInfoWord, hi, h32, h16]

end Sys2Proof.Machine
end

section
/-!
SUPPORT. What CHK() and DECODE's extraction can answer, said once (42_verify R171, 41_decode R130-R145), and the 256 bytes that
DECODE leaves in DISP_BUF.
-/

namespace Sys2Proof.Machine

theorem check_ok_present {s : State} (h : s.check.ok = true) : s.check.present = true := by
  unfold State.check at h ⊢
  simp only at h ⊢
  split
  · rename_i hn; simp [hn] at h
  · rename_i hn
    split
    · rename_i hd; simp [hn, hd] at h
    · rfl

theorem check_ok_equal {s : State} (h : s.check.ok = true) : s.check.computed = s.check.received := by
  unfold State.check at h ⊢
  simp only at h ⊢
  split
  · rfl
  · rename_i hn
    split
    · rfl
    · rename_i hd; simpa [hn, hd] using h

/-- What ties the parts of an extraction together: a value only under a float tag, display bytes only under BYTESTRING, no more
than declared, and printable (10_state R31, R32, 41_decode R144). -/
structure DecodeResult.Consistent (r : DecodeResult) : Prop where
  value_tag : r.value = 0#32 ∨ (1 ≤ r.tag.code.toNat ∧ r.tag.code.toNat ≤ 3)
  display_len : r.display = [] ∨ (r.tag = .byteString ∧ r.display.length ≤ r.rlen.toNat)
  display_printable : ∀ b ∈ r.display, printable b = true

theorem noValue_consistent (err : ErrCode) (tag : Tag) (rlen rreg : Byte) : (noValue err tag rlen rreg).Consistent where
  value_tag := .inl rfl
  display_len := .inl rfl
  display_printable := by simp [noValue]

theorem shapeOf_float {reg : Byte} {tag : Tag} (h : shapeOf reg = .float tag) : tag = .voltage ∨ tag = .current := by
  unfold shapeOf at h
  split at h
  · cases h; exact .inl rfl
  split at h
  · cases h; exact .inr rfl
  repeat' (split at h; cases h)
  cases h

theorem telemetryTag_code (sel : BitVec 2) : 1 ≤ (telemetryTag sel).code.toNat ∧ (telemetryTag sel).code.toNat ≤ 3 := by
  revert sel; decide

theorem extract_consistent (s : State) {shape : Shape} (sel : BitVec 2) (reg dlen : Byte)
    (hf : ∀ tag, shape = .float tag → tag = .voltage ∨ tag = .current) : (s.extract shape sel reg dlen).Consistent := by
  cases shape with
  | unknown => exact noValue_consistent _ _ _ _
  | float tag =>
    simp only [State.extract]
    split
    · exact noValue_consistent _ _ _ _
    · have ht : 1 ≤ tag.code.toNat ∧ tag.code.toNat ≤ 3 := by
        rcases hf tag rfl with rfl | rfl <;> decide
      exact { noValue_consistent .ok tag dlen reg with value_tag := .inr ht }
  | triple =>
    simp only [State.extract]
    split
    · exact noValue_consistent _ _ _ _
    · exact { noValue_consistent .ok (telemetryTag sel) dlen reg with value_tag := .inr (telemetryTag_code sel) }
  | string =>
    simp only [State.extract]
    split
    · exact noValue_consistent _ _ _ _
    · have hl : ((s.rxBytes 4 dlen.toNat).filter printable).length ≤ dlen.toNat := by
        simpa [State.rxBytes] using List.length_filter_le printable (s.rxBytes 4 dlen.toNat)
      exact { noValue_consistent .ok .byteString dlen reg with
        display_len := .inr ⟨rfl, hl⟩
        display_printable := fun b hb => (List.mem_filter.1 hb).2 }

theorem decodeResult_consistent (s : State) (sel : BitVec 2) : (s.decodeResult sel).Consistent := by
  unfold State.decodeResult
  split
  · exact extract_consistent s sel _ _ fun tag h => shapeOf_float h
  · exact noValue_consistent _ _ _ _

theorem DecodeResult.Consistent.display_lt {r : DecodeResult} (hr : r.Consistent) : r.display.length < 256 := by
  rcases hr.display_len with h | ⟨-, h⟩
  · simp [h]
  · exact Nat.lt_of_le_of_lt h r.rlen.isLt

theorem displayImage_length {display : List Byte} (h : display.length < 256) : (displayImage display).length = 256 := by
  simp [displayImage]; omega

/-- The cells of a run hold its bytes in order. -/
theorem cellsFrom_mem_getElem? {a : Nat} {bs : List Byte} {c : Host.Cell} (h : c ∈ cellsFrom a bs) :
    bs[c.1 - a]? = some c.2 := by
  induction bs generalizing a with
  | nil => simp [cellsFrom] at h
  | cons b bs ih =>
    rcases List.mem_cons.1 h with rfl | h
    · simp
    · have hle : a + 1 ≤ c.1 := (cellsFrom_mem h).1
      rw [show c.1 - a = (c.1 - (a + 1)) + 1 by omega, List.getElem?_cons_succ]
      exact ih h

end Sys2Proof.Machine
end

section
/-!
SUPPORT. What keeps a state legal (10_state R23-R33, R36, R38): what touches no register and no buffer, a write to TX_BUF or
RX_BUF, each group of outputs that a command writes, and so every command.
-/

namespace Sys2Proof.Machine

/-- Legality speaks of nothing but FCODEC's registers other than ENC_HDR, and of its buffers. -/
theorem State.Legal.withHost {s : State} (hs : s.Legal) {encHdr : Word} {epoch : Nat} {queue : List HostOp}
    {response : BusResponse} {reaction : HostReaction} {log : List Offset} {wire : List (List Byte)} :
    State.Legal { s with
      encHdr := encHdr, drawEpoch := epoch, hostQueue := queue, response := response, hostReaction := reaction,
      faultLog := log, wire := wire } := { hs with }

theorem State.reset_legal : State.reset.Legal where
  mem_wf := State.reset_mem_wf
  ctrl_reserved := rfl
  status_reserved := rfl
  err_code := by decide
  last_op := rfl
  ok_present := by decide
  ok_equal := by decide
  tx_len := .inl rfl
  rx_len := by decide
  res_info_reserved := rfl
  tag_code := by decide
  value_tag := .inl rfl
  disp_len := .inl rfl
  disp_printable := by simp [State.reset]
  disp_zero := by simp [State.reset]
  csum_reserved := rfl

theorem State.resetFcodec_legal (s : State) : s.resetFcodec.Legal := State.reset_legal.withHost

/-- A run that ends below DISP_BUF leaves the display as it is. -/
theorem Memory.mem_write_disp {m : Memory} {a : Nat} {bs : List Byte} {c : Host.Cell} (h : a + bs.length ≤ 0xC00)
    (hc : c ∈ m.write a bs) (hd : 0xC00 ≤ c.1) : c ∈ m := by
  rcases Memory.mem_write.1 hc with hc | hc | hc
  · exact hc.1
  · have := (cellsFrom_mem hc).2.1
    omega
  · exact hc.1

/-- A write inside TX_BUF or RX_BUF (10_state R34, R35). -/
theorem State.Legal.writeBytes {s : State} (hs : s.Legal) {a : Nat} {bs : List Byte}
    (h : (0x400 ≤ a ∧ a + bs.length ≤ 0x504) ∨ (0x800 ≤ a ∧ a + bs.length ≤ 0x904)) : (s.writeBytes a bs).Legal :=
  { hs with
    mem_wf := Memory.write_wf hs.mem_wf fun i hi => by simp [isBufferByte]; omega
    disp_printable := fun c hc hlo hhi =>
      hs.disp_printable c (Memory.mem_write_disp (by omega) hc hlo) hlo hhi
    disp_zero := fun c hc hlo =>
      hs.disp_zero c (Memory.mem_write_disp (by omega) hc (Nat.le_trans (Nat.le_add_right _ _) hlo)) hlo }

/-- Every report of a command replaces CTRL and STATUS whole, and is legal where it claims no checksum match that CSUM belies. -/
theorem State.Legal.report {s : State} (hs : s.Legal) (op : BitVec 3) (sel : BitVec 2) (err : ErrCode) {ok present : Bool}
    (hp : ok = true → present = true) (he : ok = true → s.calcByte = s.recvByte) :
    ((s.setCtrl op sel).report err ok present op).Legal :=
  { hs with
    ctrl_reserved := ctrlWord_reserved op sel
    status_reserved := statusWord_reserved err ok present op
    err_code := by simpa using err.code_le
    last_op := by simp
    ok_present := by simpa using hp
    ok_equal := fun h => he (by simpa using h) }

theorem State.Legal.nop {s : State} (hs : s.Legal) (sel : BitVec 2) : (nopCommand sel s).Legal :=
  hs.report _ _ _ (by simp) (by simp)

theorem State.Legal.illegal {s : State} (hs : s.Legal) (op : BitVec 3) (sel : BitVec 2) : (illegalCommand op sel s).Legal :=
  hs.report _ _ _ (by simp) (by simp)

/-- CSUM may be written where STATUS claims no match. -/
theorem State.Legal.withCsum {s : State} (hs : s.Legal) (hok : s.csumOk = false) (received computed : Byte) :
    State.Legal { s with csum := csumWord received computed } :=
  { hs with
    ok_equal := fun h => by rw [show s.csumOk = true from h] at hok; cases hok
    csum_reserved := csumWord_reserved received computed }

theorem nopCommand_csumOk (sel : BitVec 2) (s : State) : (nopCommand sel s).csumOk = false :=
  State.report_csumOk _ _ _ _ _

/-- CHK() is reported as it came out. A command's report replaces CTRL and STATUS, so it is the same after a NOP. -/
theorem State.Legal.reportCheck {s : State} (hs : s.Legal) {c : CheckResult} (hp : c.ok = true → c.present = true)
    (he : c.ok = true → c.computed = c.received) (op : BitVec 3) (sel : BitVec 2) (err : ErrCode) :
    ((State.setCtrl { s with csum := csumWord c.received c.computed } op sel).report err c.ok c.present op).Legal :=
  State.Legal.report (s := { nopCommand 0#2 s with csum := csumWord c.received c.computed })
    ((hs.nop 0#2).withCsum (nopCommand_csumOk 0#2 s) c.received c.computed) op sel err hp
    fun h => by simpa [State.calcByte, State.recvByte] using he h

theorem State.Legal.verify {s : State} (hs : s.Legal) (sel : BitVec 2) : (verifyCommand sel s).Legal :=
  hs.reportCheck check_ok_present check_ok_equal _ _ _

theorem encodeCommand_txLen_toNat (sel : BitVec 2) (s : State) :
    (encodeCommand sel s).txLen.toNat = s.encPlen.toNat + 5 := by
  have hn : s.encPlen.toNat < 256 := s.encPlen.isLt
  simp [encodeCommand]
  omega

theorem State.Legal.encode {s : State} (hs : s.Legal) (sel : BitVec 2) : (encodeCommand sel s).Legal := by
  have hn : s.encPlen.toNat < 256 := s.encPlen.isLt
  have hheader : (s.writeBytes txBase [s.encDir, s.encCmd, s.encReg, s.encPlen]).Legal :=
    hs.writeBytes (by simp [txBase])
  have hbuilt := hheader.writeBytes (a := txBase + 4 + s.encPlen.toNat)
    (bs := [checksumOf s.encReg s.encPlen s.encPayload]) (by simp [txBase]; omega)
  have hlen := encodeCommand_txLen_toNat sel s
  have hreported := hbuilt.reportCheck (c := ⟨false, false, checksumOf s.encReg s.encPlen s.encPayload, 0#8⟩)
    (by simp) (by simp) 1#3 sel .ok
  exact { hreported with tx_len := .inr (by omega) }

/-- What DECODE writes besides CTRL, STATUS and CSUM (41_decode R130, R132). -/
def State.withResult (s : State) (r : DecodeResult) : State :=
  { s with
    resInfo := resInfoWord r.tag r.rlen r.rreg, resVal := r.value, dispLen := BitVec.ofNat 32 r.display.length,
    mem := s.mem.write dispBase (displayImage r.display) }

theorem decodeCommand_eq {sel : BitVec 2} (h : sel ≠ 3#2) (s : State) :
    decodeCommand sel s =
      ((State.setCtrl { s.withResult (s.decodeResult sel) with csum := csumWord s.check.received s.check.computed }
        2#3 sel).report (s.decodeResult sel).err s.check.ok s.check.present 2#3) := by
  unfold decodeCommand
  rw [if_neg h]
  rfl

/-- After a DECODE the written bytes of DISP_BUF are the display image. -/
theorem Memory.mem_write_display {m : Memory} (hm : m.wf) {display : List Byte} (hl : display.length < 256) {c : Host.Cell}
    (hc : c ∈ m.write dispBase (displayImage display)) (hlo : 0xC00 ≤ c.1) :
    (displayImage display)[c.1 - 0xC00]? = some c.2 := by
  rcases Memory.mem_write.1 hc with ⟨-, h⟩ | h | ⟨h, hhi⟩
  · simp only [dispBase] at h; omega
  · exact cellsFrom_mem_getElem? h
  · have hb := hm.2 c h
    rw [displayImage_length hl] at hhi
    simp [isBufferByte, dispBase] at hb hhi
    omega

theorem State.Legal.withResult {s : State} (hs : s.Legal) {r : DecodeResult} (hr : r.Consistent) :
    (s.withResult r).Legal := by
  have hlt := hr.display_lt
  have hlen : (s.withResult r).dispLen.toNat = r.display.length := by
    simp [State.withResult]; omega
  have htag : (s.withResult r).tag = r.tag.code := resInfoWord_tag r.tag r.rlen r.rreg
  have hrlen : (s.withResult r).rlen = r.rlen := resInfoWord_rlen r.tag r.rlen r.rreg
  refine { hs with
    mem_wf := Memory.write_wf hs.mem_wf ?_
    res_info_reserved := resInfoWord_reserved r.tag r.rlen r.rreg
    tag_code := by rw [htag]; exact r.tag.code_le
    value_tag := by rw [htag]; exact hr.value_tag
    disp_len := ?_
    disp_printable := fun c hc hlo hhi => ?_
    disp_zero := fun c hc hlo => ?_ }
  · intro i hi
    rw [displayImage_length hlt] at hi
    change isBufferByte (0xC00 + i) = true
    simp [isBufferByte]
    omega
  · rw [hlen, htag, hrlen]
    rcases hr.display_len with h | ⟨h, hle⟩
    · exact .inl (by simp [h])
    · exact .inr ⟨by rw [h]; rfl, hle⟩
  · have hget := Memory.mem_write_display hs.mem_wf hlt hc hlo
    rw [hlen] at hhi
    rw [displayImage, List.getElem?_append_left (by omega)] at hget
    exact hr.display_printable c.2 (List.mem_of_getElem? hget)
  · have hget := Memory.mem_write_display hs.mem_wf hlt hc (by omega)
    rw [hlen] at hlo
    rw [displayImage, List.getElem?_append_right (by omega)] at hget
    exact List.eq_of_mem_replicate (List.mem_of_getElem? hget)

theorem State.Legal.decode {s : State} (hs : s.Legal) (sel : BitVec 2) : (decodeCommand sel s).Legal := by
  by_cases h : sel = 3#2
  · subst h
    exact hs.illegal 2#3 3#2
  · rw [decodeCommand_eq h]
    exact (hs.withResult (decodeResult_consistent s sel)).reportCheck check_ok_present check_ok_equal _ _ _

end Sys2Proof.Machine
end

section
/-!
SUPPORT. What exec does, by format (30_encoding R84, R89): a command row answers the state its command leaves, a frame row issues
the accesses of its expansion, of which the first starts no command (40_encode R110-R116, 60_exceptions R216).
-/

namespace Sys2Proof.Machine

/-- The accesses of a frame row's expansion before its CTRL write: a helper's payload stores and ENC_HDR, or the RECV of a
response (40_encode R110-R116, 30_encoding R90). None for a command row. -/
def frameAccesses : Instr → List Access
  | .nop _ | .encode _ | .decodeV | .decodeI | .decodeP | .decodeIllegalSel | .verify _ | .reservedOp _ _ => []
  | .encFrame dir cmd reg payload =>
      byteStores 0x404 payload ++ [.store .word 0x008#12 (le32 dir cmd reg (BitVec.ofNat 8 payload.length))]
  | .qGet reg => [.store .word 0x008#12 (le32 0xF1#8 0xA1#8 reg 0x00#8)]
  | .sFloat reg bits => [.store .word 0x404#12 bits, .store .word 0x008#12 (le32 0xF1#8 0xB1#8 reg 0x04#8)]
  | .sByte reg value => byteStores 0x404 [value] ++ [.store .word 0x008#12 (le32 0xF1#8 0xB1#8 reg 0x01#8)]
  | .hConnect hh payload => byteStores 0x404 [payload] ++ [.store .word 0x008#12 (le32 0xF1#8 0xC1#8 hh 0x01#8)]
  | .hBaud hh index => byteStores 0x404 [index] ++ [.store .word 0x008#12 (le32 0xF1#8 0xB0#8 hh 0x01#8)]
  | .hDisconnect hh => [.store .word 0x008#12 (le32 0xF1#8 0xC1#8 hh 0x00#8)]
  | .respSetv len body => receiveAccesses (encode (.respSetv len body))
  | .respSeti len body => receiveAccesses (encode (.respSeti len body))
  | .respTelem len body => receiveAccesses (encode (.respTelem len body))
  | .respModel len body => receiveAccesses (encode (.respModel len body))
  | .respHwver len body => receiveAccesses (encode (.respHwver len body))
  | .respFwver len body => receiveAccesses (encode (.respFwver len body))
  | .respOther reg len body => receiveAccesses (encode (.respOther reg len body))

/-- The word of a frame row's CTRL write: ENCODE for a helper, DECODE with the selector in CTRL for a response (log 7). -/
def frameCommand (i : Instr) (sel : BitVec 2) : Word :=
  match i with
  | .respSetv _ _ | .respSeti _ _ | .respTelem _ _ | .respModel _ _ | .respHwver _ _ | .respFwver _ _ => commandWord 2#3 sel
  | .respOther _ _ _ => commandWord 2#3 sel
  | _ => 0x1#32

/-- The header word of a row with a fixed direction, command and length is the constant that 40_encode R111-R116 write, with the
register in bits [23:16]. -/
theorem le32_reg (dir cmd reg len : Byte) : le32 dir cmd reg len = le32 dir cmd 0#8 len ||| reg.setWidth 32 <<< 16 := by
  have h0 : (0#8).setWidth 32 <<< 16 = 0#32 := by decide
  unfold le32
  rw [h0, BitVec.or_zero, BitVec.or_assoc, BitVec.or_comm (reg.setWidth 32 <<< 16), ← BitVec.or_assoc]

theorem expansion_eq {i : Instr} (h : i.source = .frame) (sel : BitVec 2) :
    expansion i sel = (frameAccesses i ++ [Access.store .word 0x000#12 (frameCommand i sel)]).map .access := by
  cases i with
  | nop | encode | decodeV | decodeI | decodeP | decodeIllegalSel | verify | reservedOp => cases h
  | encFrame | qGet | sFloat | sByte | hConnect | hBaud | hDisconnect =>
    simp [expansion, frameAccesses, frameCommand, byteStoreOps, wordStoreOp]
  | respSetv | respSeti | respTelem | respModel | respHwver | respFwver | respOther =>
    simp [expansion, frameAccesses, frameCommand, byteStoreOps, wordStoreOp, receiveAccesses, rxBase]

/-- A frame row is its accesses, but for the payload that no frame can hold (40_encode R103). -/
theorem exec_frame {i : Instr} (h : i.source = .frame) (s : State) :
    (i.wellFormed = false ∧ exec i s = .refused .payloadTooLong) ∨
      exec i s = issueAccesses (frameAccesses i ++ [.store .word 0x000#12 (frameCommand i s.ctrlSel)]) s := by
  cases i with
  | nop | encode | decodeV | decodeI | decodeP | decodeIllegalSel | verify | reservedOp => cases h
  | encFrame dir cmd reg payload =>
    by_cases hl : 255 < payload.length
    · refine .inl ⟨?_, if_pos hl⟩
      have : ¬ payload.length ≤ Config.maxPlen := by unfold Config.maxPlen; omega
      simp [Instr.wellFormed, this]
    · refine .inr ((if_neg hl).trans ?_)
      simp [buildFrame, frameAccesses, frameCommand]
  | qGet reg | sFloat reg bits | sByte reg value | hConnect reg payload | hBaud reg index | hDisconnect reg =>
    right
    simp only [frameAccesses]
    rw [le32_reg]
    rfl
  | respSetv | respSeti | respTelem | respModel | respHwver | respFwver | respOther => exact .inr rfl

theorem frameAccesses_startsCommand {i : Instr} {a : Access} (h : a ∈ frameAccesses i) : a.startsCommand = false := by
  have built : ∀ {base : Nat} {bs : List Byte} {header : Word},
      a ∈ byteStores base bs ++ [.store .word 0x008#12 header] → a.startsCommand = false := by
    intro base bs header ha
    rcases List.mem_append.1 ha with ha | ha
    · exact byteStores_startsCommand ha
    · rw [List.mem_singleton.1 ha]; rfl
  cases i with
  | nop | encode | decodeV | decodeI | decodeP | decodeIllegalSel | verify | reservedOp => cases h
  | encFrame | sByte | hConnect | hBaud => exact built h
  | qGet | hDisconnect => rw [List.mem_singleton.1 h]; rfl
  | sFloat =>
    rcases List.mem_cons.1 h with rfl | h
    · rfl
    · rw [List.mem_singleton.1 h]; rfl
  | respSetv | respSeti | respTelem | respModel | respHwver | respFwver | respOther => exact receiveAccesses_startsCommand h

theorem frameAccesses_ne_nil {i : Instr} (h : i.source = .frame) : frameAccesses i ≠ [] := by
  cases i with
  | nop | encode | decodeV | decodeI | decodeP | decodeIllegalSel | verify | reservedOp => cases h
  | encFrame | qGet | sFloat | sByte | hConnect | hBaud | hDisconnect => simp [frameAccesses]
  | respSetv | respSeti | respTelem | respModel | respHwver | respFwver | respOther =>
    simp [frameAccesses, receiveAccesses]

end Sys2Proof.Machine
end

section
/-!
SUPPORT. Every step keeps the legal states: an access of the bus, the accesses a row issues, every instruction, and every other
operation of the host.
-/

namespace Sys2Proof.Machine

/-- An offset of TX_BUF or RX_BUF leaves room for an aligned access, since both buffers are whole words (10_state R34, R35). -/
theorem aligned_access_inside {n : AccessSize} {off : Offset} (ha : aligned n off = true)
    (hr : regionOf off = .txBuf ∨ regionOf off = .rxBuf) :
    (0x400 ≤ off.toNat ∧ off.toNat + n.bytes ≤ 0x504) ∨ (0x800 ≤ off.toNat ∧ off.toNat + n.bytes ≤ 0x904) := by
  have hin : (0x400 ≤ off.toNat ∧ off.toNat < 0x504) ∨ (0x800 ≤ off.toNat ∧ off.toNat < 0x904) := by
    unfold regionOf at hr
    simp only at hr
    split_ifs at hr <;> simp at hr <;> omega
  cases n <;> simp [aligned, AccessSize.bytes] at ha ⊢ <;> omega

theorem controlAt_eq_ctrl {k : Nat} (h : controlAt k = .ctrl) : k = 0 := by
  unfold controlAt at h
  split at h <;> simp_all

/-- The one write that the map allows to CTRL is the word write that starts a command (20_memory R53, 42_verify R177). -/
theorem ctrl_store_startsCommand {n : AccessSize} {off : Offset} {v : Word} (ha : storeAllowed n off v = true)
    (hr : regionOf off = .control .ctrl) : Access.startsCommand (.store n off v) = true := by
  simp only [storeAllowed, hr, Bool.and_eq_true, beq_iff_eq] at ha
  obtain ⟨halign, rfl⟩ := ha
  have hoff : off = 0#12 := by
    have hk : off.toNat / 4 = 0 := by
      unfold regionOf at hr
      simp only at hr
      split_ifs at hr
      exact controlAt_eq_ctrl (Region.control.inj hr)
    simp [aligned, AccessSize.bytes] at halign
    exact BitVec.eq_of_toNat_eq (by simp; omega)
  subst hoff
  rfl

theorem State.Legal.busError {s t : State} (hs : s.Legal) {off : Offset} (h : busError off s = .next t) : t.Legal := by
  obtain ⟨-, rfl⟩ := busError_next h
  exact hs.withHost

theorem State.Legal.hostLoad {s t : State} (hs : s.Legal) {n : AccessSize} {off : Offset}
    (h : hostLoad n off s = .next t) : t.Legal := by
  rcases hostLoad_next h with ⟨-, w, rfl⟩ | ⟨-, h⟩
  · exact hs.withHost
  · exact hs.busError h

theorem wordBytes_take_length (v : Word) (n : AccessSize) : ((wordBytes v).take n.bytes).length = n.bytes := by
  cases n <;> rfl

theorem State.Legal.hostStore {s t : State} (hs : s.Legal) {n : AccessSize} {off : Offset} {v : Word}
    (hc : Access.startsCommand (.store n off v) = false) (h : hostStore n off v s = .next t) : t.Legal := by
  rcases hostStore_next h with ⟨ha, ⟨hr, -⟩ | ⟨-, rfl⟩ | ⟨-, hv, rfl⟩ | ⟨hr, rfl⟩⟩ | h
  · rw [ctrl_store_startsCommand ha hr] at hc
    cases hc
  · exact hs.withHost
  · exact State.Legal.withHost (s := { s with rxLen := v }) { hs with rx_len := hv }
  · have halign : aligned n off = true := (Bool.and_eq_true_iff.1 ha).1
    have hin := aligned_access_inside halign hr
    exact (hs.writeBytes (by rwa [wordBytes_take_length])).withHost
  · exact hs.busError h

theorem State.Legal.hostAccess {s t : State} (hs : s.Legal) {a : Access} (hc : a.startsCommand = false)
    (h : hostAccess a s = .next t) : t.Legal := by
  cases a with
  | load n off => exact hs.hostLoad h
  | store n off v => exact hs.hostStore hc h

theorem State.Legal.issueAccesses {s t : State} (hs : s.Legal) {as : List Access}
    (hc : ∀ a ∈ as.head?, a.startsCommand = false) (h : issueAccesses as s = .next t) : t.Legal := by
  cases as with
  | nil => cases h; exact hs
  | cons a as => exact State.Legal.hostAccess hs.withHost (hc a rfl) h

theorem State.Legal.exec {s t : State} (hs : s.Legal) {i : Instr} (h : exec i s = .next t) : t.Legal := by
  cases hsrc : i.source with
  | ctrl =>
    cases i with
    | nop sel => cases h; exact hs.nop sel
    | encode sel => cases h; exact hs.encode sel
    | decodeV | decodeI | decodeP => cases h; exact hs.decode _
    | verify sel => cases h; exact hs.verify sel
    | decodeIllegalSel | reservedOp => cases h; exact hs.illegal _ _
    | encFrame | qGet | sFloat | sByte | hConnect | hBaud | hDisconnect => cases hsrc
    | respSetv | respSeti | respTelem | respModel | respHwver | respFwver | respOther => cases hsrc
  | frame =>
    rcases exec_frame hsrc s with ⟨-, hr⟩ | hi
    · rw [hr] at h; cases h
    · rw [hi] at h
      refine hs.issueAccesses (fun a ha => frameAccesses_startsCommand (i := i) ?_) h
      obtain ⟨b, bs, hb⟩ := List.exists_cons_of_ne_nil (frameAccesses_ne_nil hsrc)
      rw [hb] at ha ⊢
      cases ha
      exact List.mem_cons_self

theorem State.Legal.sendNext {s t : State} (hs : s.Legal) {read : List Byte} (h : sendNext read s = .next t) : t.Legal := by
  unfold Machine.sendNext at h
  split at h
  · split at h
    · rename_i u hu
      cases h
      rcases u.keepSending_eq read with hk | ⟨w, -, hk⟩
      · rw [hk]; exact hs.hostLoad hu
      · rw [hk]; exact (hs.hostLoad hu).withHost
    · cases h
    · cases h
  · cases h
    exact hs.withHost

theorem State.Legal.serveHostOp {s t : State} (hs : s.Legal) {op : HostOp} (hf : fetchBytes op = none)
    (h : serveHostOp op s = .next t) : t.Legal := by
  cases op with
  | access a => exact hs.hostAccess (by simpa [Access.startsCommand] using hf) h
  | frame bytes => cases hf
  | receive bytes =>
    exact hs.issueAccesses (fun a ha => receiveAccesses_startsCommand (List.mem_of_mem_head? ha)) h
  | send read => exact hs.sendNext h
  | wait => cases h; exact hs
  | reset | powerEvent => cases h; exact s.resetFcodec_legal
  | accessDuringReset | secondAgent => cases h

/-- What a step does: nothing where nothing is pending; else it runs the instruction that the oldest operation presents, or serves
an operation that presents none (10_state R43; log 1). -/
theorem step_next {s t : State} (h : step s = .next t) :
    (s.hostQueue = [] ∧ t = s) ∨ ∃ op rest, s.hostQueue = op :: rest ∧
      ((∃ src bytes i after, fetchBytes op = some (src, bytes) ∧ decode src bytes = .instr i after ∧
          exec i ((s.dequeue rest).respond .done) = .next t) ∨
        (fetchBytes op = none ∧ serveHostOp op (s.dequeue rest) = .next t)) := by
  unfold step at h
  split at h
  · rename_i hq
    cases h
    exact .inl ⟨hq, rfl⟩
  · rename_i op rest hq
    refine .inr ⟨op, rest, hq, ?_⟩
    split at h
    · rename_i src bytes hf
      split at h
      · rename_i i after hd
        exact .inl ⟨src, bytes, i, after, hf, hd, h⟩
      · cases h
    · rename_i hf
      exact .inr ⟨hf, h⟩

theorem State.Legal.step {s t : State} (hs : s.Legal) (h : step s = .next t) : t.Legal := by
  rcases step_next h with ⟨-, rfl⟩ | ⟨op, rest, -, ⟨src, bytes, i, after, -, -, h⟩ | ⟨hf, h⟩⟩
  · exact hs
  · exact State.Legal.exec hs.withHost h
  · exact State.Legal.serveHostOp hs.withHost hf h

/-- Settles O57: every register holds 0 and no buffer byte was written. -/
theorem resetStateIsLegal : Obligations.ResetStateIsLegal := State.reset_legal

/-- Settles O58: the legal states are kept by every command, every access and every other operation of the host. -/
theorem stepKeepsLegalStates : Obligations.StepKeepsLegalStates := fun _ _ hs h => hs.step h

end Sys2Proof.Machine
end

section
/-!
SUPPORT. What a command leaves alone (10_state R41), and the bytes its result depends on (R42, 41_decode R147, 42_verify R171).
-/

namespace Sys2Proof.Machine

/-! ### The buffer bytes a command writes -/

/-- ENCODE writes the header at TX[0..3] and the checksum at TX[4 + PLEN] (40_encode R100). -/
theorem readByte_encodeCommand (sel : BitVec 2) (s : State) {a : Nat} (hh : a < 0x400 ∨ 0x404 ≤ a)
    (hc : a ≠ 0x404 + s.encPlen.toNat) : (encodeCommand sel s).readByte a = s.readByte a := by
  change ((s.writeBytes txBase [s.encDir, s.encCmd, s.encReg, s.encPlen]).writeBytes (txBase + 4 + s.encPlen.toNat)
    [checksumOf s.encReg s.encPlen s.encPayload]).readByte a = s.readByte a
  rw [State.readByte_writeBytes, if_neg (by simp [txBase]; omega),
    State.readByte_writeBytes, if_neg (by simp [txBase]; omega)]

/-- DECODE writes DISP_BUF alone (41_decode R132). -/
theorem readByte_decodeCommand (sel : BitVec 2) (s : State) {a : Nat} (h : a < 0xC00 ∨ 0xD00 ≤ a) :
    (decodeCommand sel s).readByte a = s.readByte a := by
  by_cases hsel : sel = 3#2
  · subst hsel
    rfl
  · rw [decodeCommand_eq hsel]
    change (s.writeBytes dispBase (displayImage (s.decodeResult sel).display)).readByte a = s.readByte a
    have hlen := displayImage_length (decodeResult_consistent s sel).display_lt
    rw [State.readByte_writeBytes, hlen, if_neg (by simp [dispBase]; omega)]

/-- DECODE's registers (10_state R41). -/
theorem decodeCommand_frame (sel : BitVec 2) (s : State) :
    decodeCommand sel s = { s with
      ctrl := (decodeCommand sel s).ctrl, status := (decodeCommand sel s).status, csum := (decodeCommand sel s).csum,
      resInfo := (decodeCommand sel s).resInfo, resVal := (decodeCommand sel s).resVal,
      dispLen := (decodeCommand sel s).dispLen, mem := (decodeCommand sel s).mem } := by
  by_cases hsel : sel = 3#2
  · subst hsel
    rfl
  · rw [decodeCommand_eq hsel]
    rfl

/-- Settles O36, a row of the write matrix at a time. -/
theorem commandsFollowTheWriteMatrix : Obligations.CommandsFollowTheWriteMatrix := by
  intro i s hsrc
  cases i with
  | nop | decodeIllegalSel | reservedOp =>
    exact ⟨_, rfl, rfl, rfl, fun _ _ => rfl, rfl, rfl, rfl, rfl, rfl, rfl, fun _ => ⟨rfl, fun _ _ => rfl⟩,
      fun _ => ⟨rfl, rfl, rfl, fun _ _ => rfl⟩, fun _ _ _ => rfl⟩
  | verify sel =>
    exact ⟨_, rfl, rfl, rfl, fun _ _ => rfl, rfl, rfl, rfl, rfl, rfl, rfl, fun _ => ⟨rfl, fun _ _ => rfl⟩,
      fun _ => ⟨rfl, rfl, rfl, fun _ _ => rfl⟩, fun _ hverify _ => absurd rfl (hverify sel)⟩
  | encode sel =>
    have hn : s.encPlen.toNat < 256 := s.encPlen.isLt
    have hkept : ∀ a, a < 0x400 ∨ 0x504 ≤ a → (encodeCommand sel s).readByte a = s.readByte a :=
      fun a ha => readByte_encodeCommand sel s (by omega) (by omega)
    exact ⟨_, rfl, rfl, rfl, fun a ha => hkept a (by omega), rfl, rfl, rfl, rfl, rfl, rfl,
      fun hencode => absurd rfl (hencode sel), fun _ => ⟨rfl, rfl, rfl, fun a ha => hkept a (by omega)⟩,
      fun hencode _ _ => absurd rfl (hencode sel)⟩
  | decodeV | decodeI | decodeP =>
    have hkept := fun sel a (ha : a < 0xC00) => readByte_decodeCommand sel s (a := a) (.inl ha)
    refine ⟨_, rfl, ?_⟩
    rw [decodeCommand_frame]
    exact ⟨rfl, rfl, fun a ha => hkept _ a (by omega), rfl, rfl, rfl, rfl, rfl, rfl,
      fun _ => ⟨rfl, fun a ha => hkept _ a (by omega)⟩, fun hdecode => absurd hdecode (by simp),
      fun _ _ hdecode => absurd hdecode (by simp)⟩
  | encFrame | qGet | sFloat | sByte | hConnect | hBaud | hDisconnect => cases hsrc
  | respSetv | respSeti | respTelem | respModel | respHwver | respFwver | respOther => cases hsrc

/-! ### The bytes of the received frame that CHK() and DECODE read -/

theorem rxBytes_congr {s u : State} {i n : Nat} (h : ∀ j, i ≤ j → j < i + n → u.rx j = s.rx j) :
    u.rxBytes i n = s.rxBytes i n :=
  List.map_congr_left fun k hk => h (i + k) (by omega) (by simpa using hk)

theorem txBytes_congr {s u : State} {i n : Nat} (h : ∀ j, i ≤ j → j < i + n → u.tx j = s.tx j) :
    u.txBytes i n = s.txBytes i n :=
  List.map_congr_left fun k hk => h (i + k) (by omega) (by simpa using hk)

theorem rxFloat_congr {s u : State} {i : Nat} (h : ∀ j, i ≤ j → j < i + 4 → u.rx j = s.rx j) :
    u.rxFloat i = s.rxFloat i := by
  unfold State.rxFloat
  rw [h i (by omega) (by omega), h (i + 1) (by omega) (by omega), h (i + 2) (by omega) (by omega),
    h (i + 3) (by omega) (by omega)]

/-- `u` holds the same received frame as `s`: the same RX_LEN, and the same bytes below it up to the frame's checksum byte. -/
def sameReceivedFrame (s u : State) : Prop :=
  u.rxLen = s.rxLen ∧ ∀ j, j < s.rxLen.toNat → j < 5 + (s.rx 3).toNat → u.rx j = s.rx j

theorem check_congr {s u : State} (h : sameReceivedFrame s u) : u.check = s.check := by
  obtain ⟨hlen, hrx⟩ := h
  have hcount : u.rxCount = s.rxLen.toNat := congrArg BitVec.toNat hlen
  simp only [State.check, hcount, show s.rxCount = s.rxLen.toNat from rfl]
  by_cases h4 : s.rxLen.toNat < 4
  · simp [h4]
  · rw [hrx 3 (by omega) (by omega), hrx 2 (by omega) (by omega)]
    by_cases h5 : s.rxLen.toNat < 5 + (s.rx 3).toNat
    · simp [h5]
    · rw [hrx (4 + (s.rx 3).toNat) (by omega) (by omega), rxBytes_congr fun j _ hj => hrx j (by omega) (by omega)]

theorem responseGate_congr {s u : State} (h : sameReceivedFrame s u) : u.responseGate = s.responseGate := by
  obtain ⟨hlen, hrx⟩ := h
  have hcount : u.rxCount = s.rxLen.toNat := congrArg BitVec.toNat hlen
  simp only [State.responseGate, hcount, show s.rxCount = s.rxLen.toNat from rfl]
  by_cases h6 : 6 < s.rxLen.toNat
  · rw [hrx 0 (by omega) (by omega), hrx 1 (by omega) (by omega)]
  · simp [h6]

/-- An extraction reads the payload only, and only where it lies inside the received bytes (41_decode R137, R138, R147). -/
theorem extract_congr {s u : State} (hlen : u.rxLen = s.rxLen) (shape : Shape) {sel : BitVec 2} (hsel : sel ≠ 3#2)
    (reg dlen : Byte) (hrx : ∀ j, j < s.rxLen.toNat → j < 4 + dlen.toNat → u.rx j = s.rx j) :
    u.extract shape sel reg dlen = s.extract shape sel reg dlen := by
  have hcount : u.rxCount = s.rxCount := congrArg BitVec.toNat hlen
  have hs : s.rxCount = s.rxLen.toNat := rfl
  cases shape with
  | unknown => rfl
  | float tag =>
    simp only [State.extract, hcount]
    split
    · rfl
    · rw [rxFloat_congr fun j _ hj => hrx j (by omega) (by omega)]
  | triple =>
    simp only [State.extract, hcount]
    split
    · rfl
    · have h3 : sel.toNat < 3 := by
        have h4 := sel.isLt
        have hne : sel.toNat ≠ 3 := fun h => hsel (BitVec.eq_of_toNat_eq h)
        omega
      rw [rxFloat_congr fun j _ hj => hrx j (by omega) (by omega)]
  | string =>
    simp only [State.extract, hcount]
    split
    · rfl
    · rw [rxBytes_congr fun j _ hj => hrx j (by omega) (by omega)]

theorem decodeResult_congr {s u : State} (h : sameReceivedFrame s u) {sel : BitVec 2} (hsel : sel ≠ 3#2) :
    u.decodeResult sel = s.decodeResult sel := by
  unfold State.decodeResult
  rw [responseGate_congr h]
  obtain ⟨hlen, hrx⟩ := h
  split
  · rename_i hgate
    have h6 : 6 < s.rxLen.toNat := of_decide_eq_true (Bool.and_eq_true_iff.1 hgate).1
    rw [hrx 2 (by omega) (by omega), hrx 3 (by omega) (by omega)]
    exact extract_congr hlen _ hsel _ _ fun j hj hd => hrx j hj (by omega)
  · rfl

/-! ### Draws -/

/-- What a written location reads as is no draw (10_state R42). -/
theorem readByte_of_written {s : State} {a : Nat} (h : s.written a) (epoch : Nat) :
    State.readByte { s with drawEpoch := epoch } a = s.readByte a := by
  obtain ⟨b, hb⟩ := Option.ne_none_iff_exists'.1 h
  simp only [State.readByte, hb]

theorem sameReceivedFrame_of_receivedWritten {s : State} (h : s.receivedWritten) (epoch : Nat) :
    sameReceivedFrame s { s with drawEpoch := epoch } :=
  ⟨rfl, fun j hj _ => readByte_of_written (h j hj) epoch⟩

theorem encodeCommand_drawEpoch {s : State} (h : s.payloadWritten) (sel : BitVec 2) (epoch : Nat) :
    encodeCommand sel { s with drawEpoch := epoch } = { encodeCommand sel s with drawEpoch := epoch } := by
  have hpayload : State.txBytes { s with drawEpoch := epoch } 4 s.encPlen.toNat = s.txBytes 4 s.encPlen.toNat := by
    refine txBytes_congr fun j hlo hhi => ?_
    have hj : txBase + j = 0x404 + (j - 4) := by simp only [txBase]; omega
    have hw : s.written (txBase + j) := hj ▸ h (j - 4) (by omega)
    exact readByte_of_written hw epoch
  have hbuilt : State.encPayload { s with drawEpoch := epoch } = s.encPayload := hpayload
  unfold encodeCommand
  rw [hbuilt]
  rfl

theorem verifyCommand_drawEpoch {s : State} (h : s.receivedWritten) (sel : BitVec 2) (epoch : Nat) :
    verifyCommand sel { s with drawEpoch := epoch } = { verifyCommand sel s with drawEpoch := epoch } := by
  unfold verifyCommand
  rw [check_congr (sameReceivedFrame_of_receivedWritten h epoch)]
  rfl

theorem decodeCommand_drawEpoch {s : State} (h : s.receivedWritten) (sel : BitVec 2) (epoch : Nat) :
    decodeCommand sel { s with drawEpoch := epoch } = { decodeCommand sel s with drawEpoch := epoch } := by
  have hsame := sameReceivedFrame_of_receivedWritten h epoch
  by_cases hsel : sel = 3#2
  · subst hsel
    rfl
  · rw [decodeCommand_eq hsel, decodeCommand_eq hsel, check_congr hsame, decodeResult_congr hsame hsel]
    rfl

/-- Settles O37: the commands that read buffer bytes read written ones only, and no command reads the draws' number. -/
theorem resultsIgnoreDrawsOnceInputsAreWritten : Obligations.ResultsIgnoreDrawsOnceInputsAreWritten := by
  intro i s epoch hsrc hpayload hreceived
  cases i with
  | nop | decodeIllegalSel | reservedOp => exact ⟨_, rfl, rfl⟩
  | encode sel => exact ⟨_, rfl, congrArg _ (encodeCommand_drawEpoch (hpayload ⟨sel, rfl⟩) sel epoch)⟩
  | decodeV | decodeI | decodeP =>
    exact ⟨_, rfl, congrArg _ (decodeCommand_drawEpoch (hreceived (.inl (by simp))) _ epoch)⟩
  | verify sel => exact ⟨_, rfl, congrArg _ (verifyCommand_drawEpoch (hreceived (.inr ⟨sel, rfl⟩)) sel epoch)⟩
  | encFrame | qGet | sFloat | sByte | hConnect | hBaud | hDisconnect => cases hsrc
  | respSetv | respSeti | respTelem | respModel | respHwver | respFwver | respOther => cases hsrc

end Sys2Proof.Machine
end

section
/-!
SUPPORT. A frame row in the host's queue: its bytes decode to it (30_encoding R70, R89, R91), its first step is the first of its
single accesses, and its accesses run to the end (10_state R43; log 6).
-/

namespace Sys2Proof.Machine

/-! ### Frames decode to the row they encode -/

/-- A word is the little-endian composition of its bytes (00_scope R12, 20_memory R55). -/
theorem le32_wordByte (w : Word) : le32 (wordByte w 0) (wordByte w 1) (wordByte w 2) (wordByte w 3) = w := by
  ext i hi
  interval_cases i <;> simp [le32, wordByte]

/-- A header outside the specific rows is ENC.FRAME's (30_encoding R89). -/
theorem frameKind_encFrame {f0 f1 f3 : Byte} (h : inSpecificRow f0 f1 f3 = false) (f2 : Byte) :
    frameKind f0 f1 f2 f3 = .encFrame := by
  simp [inSpecificRow] at h
  unfold frameKind
  split_ifs <;> simp_all

theorem frameKind_respOther {reg : Byte} (h : inRegisterTable reg = false) (len : Byte) :
    frameKind 0xF0#8 0xA1#8 reg len = .respOther := by
  simp [inRegisterTable] at h
  simp [frameKind, h]

/-- A payload followed by the frame's checksum byte is taken whole, and nothing is left. -/
theorem withPayload_append (payload : List Byte) (sum : Byte) (k : List Byte → Instr) :
    withPayload payload.length (payload ++ [sum]) k = .instr (k payload) [] := by
  simp [withPayload]

/-- A built frame decodes to what its header's row makes of its payload. -/
theorem decode_frameBytes (dir cmd reg : Byte) (payload : List Byte) :
    decode .frame (frameBytes dir cmd reg payload) =
      decodeFrameBody dir cmd reg (BitVec.ofNat 8 payload.length)
        (payload ++ [frameChecksum reg (BitVec.ofNat 8 payload.length) payload]) := by
  simp [decode, frameBytes]

theorem encFrame_wellFormed {dir cmd reg : Byte} {payload : List Byte}
    (h : Instr.wellFormed (.encFrame dir cmd reg payload) = true) :
    payload.length ≤ 255 ∧ inSpecificRow dir cmd (BitVec.ofNat 8 payload.length) = false := by
  obtain ⟨hlen, hrow⟩ := Bool.and_eq_true_iff.1 h
  exact ⟨of_decide_eq_true hlen, by simpa using hrow⟩

/-- Decode and encode agree on the frame rows (30_encoding R89, R91). -/
theorem decode_encode_frame {i : Instr} (hw : i.wellFormed = true) (hsrc : i.source = .frame) :
    decode .frame (encode i) = .instr i [] := by
  cases i with
  | nop | encode | decodeV | decodeI | decodeP | decodeIllegalSel | verify | reservedOp => cases hsrc
  | encFrame dir cmd reg payload =>
    obtain ⟨hlen, hrow⟩ := encFrame_wellFormed hw
    have hn : (BitVec.ofNat 8 payload.length).toNat = payload.length := by simp; omega
    rw [encode, decode_frameBytes, decodeFrameBody, frameKind_encFrame hrow]
    simp only [hn, withPayload_append]
  | qGet reg | hDisconnect reg => rw [encode, decode_frameBytes]; rfl
  | sByte reg value => rw [encode, decode_frameBytes]; rfl
  | hConnect reg value => rw [encode, decode_frameBytes]; rfl
  | hBaud reg value => rw [encode, decode_frameBytes]; rfl
  | sFloat reg bits =>
    rw [encode, decode_frameBytes]
    exact congrArg (fun w => Decoded.instr (.sFloat reg w) []) (le32_wordByte bits)
  | respSetv | respSeti | respTelem | respModel | respHwver | respFwver => rfl
  | respOther reg len body =>
    simp [Instr.wellFormed] at hw
    obtain ⟨hreg, -⟩ := hw
    simp [encode, decode, decodeFrameBody, frameKind_respOther hreg]

/-! ### The first step -/

/-- An access replaces the bus response, so the one before it does not matter (10_state R44). -/
theorem hostAccess_respond (a : Access) (r : BusResponse) (s : State) : hostAccess a (s.respond r) = hostAccess a s := by
  have hbus : ∀ off, busError off (s.respond r) = busError off s := fun off => rfl
  cases a with
  | load n off =>
    simp only [hostAccess, hostLoad, hbus]
    split
    · split
      · rename_i reg _
        cases reg <;> rfl
      all_goals rfl
    · rfl
  | store n off v =>
    simp only [hostAccess, hostStore, hbus]
    split
    · split <;> rfl
    · rfl

/-- A step on a frame that decodes to `i` is exec of `i`. -/
theorem step_frame {bytes : List Byte} {i : Instr} {after : List Byte} (h : decode .frame bytes = .instr i after) (s : State)
    (q : List HostOp) : step (s.dequeue (.frame bytes :: q)) = exec i ((s.dequeue q).respond .done) := by
  simp only [step, State.dequeue_hostQueue, fetchBytes, h]
  rfl

/-- The first step of a frame row is the first step of its single accesses. -/
theorem step_frame_eq_expansion {i : Instr} (hw : i.wellFormed = true) (hsrc : i.source = .frame) (s : State)
    (q : List HostOp) :
    step (s.dequeue (.frame (encode i) :: q)) = step (s.dequeue (expansion i s.ctrlSel ++ q)) := by
  rw [step_frame (decode_encode_frame hw hsrc), expansion_eq hsrc]
  rcases exec_frame hsrc ((s.dequeue q).respond .done) with ⟨hill, -⟩ | hexec
  · rw [hw] at hill
    cases hill
  · obtain ⟨a, as, has⟩ := List.exists_cons_of_ne_nil (frameAccesses_ne_nil hsrc)
    have ha : a.startsCommand = false := frameAccesses_startsCommand (i := i) (by simp [has])
    rw [hexec, has, List.cons_append, issueAccesses, List.cons_append, List.map_cons, List.cons_append, step_access ha]
    rw [← hostAccess_respond a .done (s.dequeue _)]
    rfl

/-! ### The accesses run to the end -/

/-- Every access of a well-formed frame row before its CTRL write is one that the map allows. -/
theorem frameAccesses_run {i : Instr} (hw : i.wellFormed = true) (s : State) :
    ∃ u, hostAccesses (frameAccesses i) s = .next u := by
  have built : ∀ {payload : List Byte} {header : Word}, payload.length ≤ 255 →
      ∃ u, hostAccesses (byteStores 0x404 payload ++ [.store .word 0x008#12 header]) s = .next u := by
    intro payload header hlen
    by_cases hne : payload = []
    · subst hne
      exact ⟨_, rfl⟩
    · exact ⟨_, hostAccesses_append_of_next (byteStores_run hne (.inl ⟨by omega, by omega⟩))⟩
  have received : ∀ {header body : List Byte}, header.length = 4 → bodyFits body = true →
      ∃ u, hostAccesses (receiveAccesses (header ++ body)) s = .next u := by
    intro header body hheader hbody
    have hfits : body.length + 4 ≤ 260 := by simpa [bodyFits, Config.maxFrame] using hbody
    obtain ⟨m, hm, -⟩ := receiveAccesses_run (s := s) (bytes := header ++ body)
      (by rw [List.length_append]; omega)
    exact ⟨_, hm⟩
  cases i with
  | nop | encode | decodeV | decodeI | decodeP | decodeIllegalSel | verify | reservedOp => exact ⟨s, rfl⟩
  | encFrame dir cmd reg payload =>
    exact built (encFrame_wellFormed hw).1
  | qGet | hDisconnect | sFloat => exact ⟨_, rfl⟩
  | sByte | hConnect | hBaud => exact built (by simp)
  | respSetv | respSeti | respTelem | respModel | respHwver | respFwver => exact received rfl hw
  | respOther => exact received rfl (Bool.and_eq_true_iff.1 hw).2

theorem decodeCommandWord_source (w : Word) : (decodeCommandWord w).source = .ctrl := by
  unfold decodeCommandWord
  simp only
  split_ifs <;> rfl

/-- A command word completes and keeps the host's queue (10_state R41). -/
theorem exec_command_keeps_queue {i : Instr} (hsrc : i.source = .ctrl) (s : State) :
    ∃ v, exec i s = .next v ∧ v.hostQueue = s.hostQueue := by
  obtain ⟨v, hv, -, -, -, -, hq, -⟩ := commandsFollowTheWriteMatrix i s hsrc
  exact ⟨v, hv, hq⟩

/-- The single accesses of a well-formed frame row run to the end, one a step. -/
theorem expansion_completes {i : Instr} (hw : i.wellFormed = true) (hsrc : i.source = .frame) (sel : BitVec 2) (s : State)
    (q : List HostOp) :
    ∃ t, steps (expansion i sel).length (s.dequeue (expansion i sel ++ q)) = .next t ∧ t.hostQueue = q := by
  obtain ⟨u, hu⟩ := frameAccesses_run hw s
  obtain ⟨t, ht, hq⟩ := exec_command_keeps_queue (decodeCommandWord_source (le32 (wordByte (frameCommand i sel) 0)
    (wordByte (frameCommand i sel) 1) (wordByte (frameCommand i sel) 2) (wordByte (frameCommand i sel) 3)))
    ((u.dequeue q).respond .done)
  refine ⟨t, ?_, hq⟩
  rw [expansion_eq hsrc, List.length_map, List.length_append, List.length_singleton, List.map_append, List.append_assoc,
    run_accesses hu (fun a ha => frameAccesses_startsCommand ha)]
  exact steps_succ_of_next (k := 0) (step_ctrl.trans ht)

/-- Settles O50: the row and its single accesses agree after the first step, so after every number of steps. -/
theorem frameRowsAreTheirSingleAccesses : Obligations.FrameRowsAreTheirSingleAccesses := by
  intro i s q hw hsrc
  have heq : ∀ k, 0 < k → steps k (s.dequeue (.frame (encode i) :: q)) =
      steps k (s.dequeue (expansion i s.ctrlSel ++ q)) := by
    intro k hk
    obtain ⟨j, rfl⟩ := Nat.exists_eq_succ_of_ne_zero (Nat.ne_of_gt hk)
    simp only [steps, step_frame_eq_expansion hw hsrc]
  refine ⟨heq, ?_⟩
  obtain ⟨t, ht, hq⟩ := expansion_completes hw hsrc s.ctrlSel s q
  have hpos : 0 < (expansion i s.ctrlSel).length := by simp [expansion_eq hsrc]
  exact ⟨t, (heq _ hpos).trans ht, hq⟩

end Sys2Proof.Machine
end

section
/-!
SUPPORT. Single steps and single accesses, each read off the model's own definitions.
-/

namespace Sys2Proof.Machine

/-- Settles O5. -/
theorem stepRunsTheDecodedInstruction : Obligations.StepRunsTheDecodedInstruction := by
  intro s op rest src bytes after i hq hf hd
  simp only [step, hq, hf, hd]
  rfl

/-- A location that nothing has written reads as the draw of its reset (10_state R42). -/
theorem readByte_of_mem_nil {s : State} (h : s.mem = []) (a : Nat) : s.readByte a = Config.unwrittenByte s.drawEpoch a := by
  simp only [State.readByte, h, Memory.get?]

/-- Settles O13: both events are State.resetFcodec, and an empty list of written bytes makes every read a draw. -/
theorem resetRestoresEveryRegister : Obligations.ResetRestoresEveryRegister := by
  intro s op rest hq hop
  have hstep : step s = .next (s.dequeue rest).resetFcodec := by
    rcases hop with rfl | rfl <;> simp only [step, hq, fetchBytes] <;> rfl
  exact ⟨_, hstep, rfl, readByte_of_mem_nil rfl⟩

/-- Settles O55. -/
theorem controlRegistersReadAndWriteWhole : Obligations.ControlRegistersReadAndWriteWhole := by
  intro s
  refine ⟨fun off w h => ?_, fun v => hostAccess_encHdr v s, fun v hv => hostAccess_rxLen hv⟩
  simp only [List.mem_cons, Prod.mk.injEq, List.not_mem_nil, or_false] at h
  rcases h with ⟨rfl, rfl⟩ | ⟨rfl, rfl⟩ | ⟨rfl, rfl⟩ | ⟨rfl, rfl⟩ | ⟨rfl, rfl⟩ | ⟨rfl, rfl⟩ | ⟨rfl, rfl⟩ | ⟨rfl, rfl⟩ |
    ⟨rfl, rfl⟩ <;> rfl

end Sys2Proof.Machine
end

section
/-!
SUPPORT. Repeating a command (20_memory R59): a run of bytes written again at its place changes nothing, writes of runs that do not
overlap commute, and a command reads no byte that it writes itself.
-/

namespace Sys2Proof.Machine

/-! ### Writing runs of bytes again -/

/-- The cells on one side of a run are not touched by its write. -/
theorem Memory.filter_write_of_outside (m : Memory) {a : Nat} {bs : List Byte} (p : Nat → Bool)
    (h : (∀ x, p x = true → x < a) ∨ ∀ x, p x = true → a + bs.length ≤ x) :
    (m.write a bs).filter (fun c => p c.1) = m.filter fun c => p c.1 := by
  have hrun : (cellsFrom a bs).filter (fun c => p c.1) = [] := by
    refine List.filter_eq_nil_iff.2 fun c hc hp => ?_
    obtain ⟨hlo, hhi, -⟩ := cellsFrom_mem hc
    rcases h with h | h <;> have := h c.1 hp <;> omega
  simp only [Memory.write, List.filter_append, List.filter_filter, hrun, List.append_nil]
  rcases h with h | h
  · have hkeep : ∀ x, (p x && decide (x < a)) = p x := fun x => by cases hp : p x <;> simp [h x, hp]
    have hdrop : ∀ x, (p x && decide (a + bs.length ≤ x)) = false := fun x => by
      cases hp : p x
      · rfl
      · have := h x hp; simp; omega
    simp [hkeep, hdrop]
  · have hkeep : ∀ x, (p x && decide (a + bs.length ≤ x)) = p x := fun x => by cases hp : p x <;> simp [h x, hp]
    have hdrop : ∀ x, (p x && decide (x < a)) = false := fun x => by
      cases hp : p x
      · rfl
      · have := h x hp; simp; omega
    simp [hkeep, hdrop]

/-- Writing a run again changes nothing; no canonical form is needed. -/
theorem Memory.write_write_same (m : Memory) (a : Nat) (bs : List Byte) : (m.write a bs).write a bs = m.write a bs := by
  have hbelow := m.filter_write_of_outside (a := a) (bs := bs) (fun x => decide (x < a))
    (.inl fun _ => of_decide_eq_true)
  have habove := m.filter_write_of_outside (a := a) (bs := bs) (fun x => decide (a + bs.length ≤ x))
    (.inr fun _ => of_decide_eq_true)
  rw [Memory.write, hbelow, habove]
  rfl

/-- Writes of runs that do not overlap commute; no canonical form is needed. -/
theorem Memory.write_comm (m : Memory) {a c : Nat} {bs cs : List Byte} (h : a + bs.length ≤ c) :
    (m.write a bs).write c cs = (m.write c cs).write a bs := by
  have habove := m.filter_write_of_outside (a := a) (bs := bs) (fun x => decide (c + cs.length ≤ x))
    (.inr fun x hx => by have := of_decide_eq_true hx; omega)
  have hbelow := m.filter_write_of_outside (a := c) (bs := cs) (fun x => decide (x < a))
    (.inl fun x hx => by have := of_decide_eq_true hx; omega)
  have hbs : (cellsFrom a bs).filter (fun d => decide (d.1 < c)) = cellsFrom a bs :=
    List.filter_eq_self.2 fun d hd => by have := (cellsFrom_mem hd).2.1; simp; omega
  have hcs : (cellsFrom c cs).filter (fun d => decide (a + bs.length ≤ d.1)) = cellsFrom c cs :=
    List.filter_eq_self.2 fun d hd => by have := (cellsFrom_mem hd).1; simp; omega
  have hlow : m.filter (fun d => decide (d.1 < c) && decide (d.1 < a)) = m.filter fun d => decide (d.1 < a) :=
    List.filter_congr fun d _ => by by_cases hd : d.1 < a <;> simp [hd]; omega
  have hhigh : m.filter (fun d => decide (a + bs.length ≤ d.1) && decide (c + cs.length ≤ d.1)) =
      m.filter fun d => decide (c + cs.length ≤ d.1) :=
    List.filter_congr fun d _ => by by_cases hd : c + cs.length ≤ d.1 <;> simp [hd]; omega
  have hmid : m.filter (fun d => decide (d.1 < c) && decide (a + bs.length ≤ d.1)) =
      m.filter fun d => decide (a + bs.length ≤ d.1) && decide (d.1 < c) :=
    List.filter_congr fun d _ => Bool.and_comm _ _
  rw [Memory.write, habove, Memory.write.eq_def (m.write c cs), hbelow]
  simp only [Memory.write, List.filter_append, List.filter_filter, hbs, hcs, hlow, hhigh, hmid, List.append_assoc]

/-- Two runs that do not overlap, written again in the same order, change nothing. -/
theorem Memory.write_write_again (m : Memory) {a c : Nat} {bs cs : List Byte} (h : a + bs.length ≤ c) :
    (((m.write a bs).write c cs).write a bs).write c cs = (m.write a bs).write c cs := by
  rw [← (m.write a bs).write_comm h, Memory.write_write_same, Memory.write_write_same]

/-! ### The commands -/

/-- ENCODE writes the header and then the checksum behind the payload (40_encode R100). -/
theorem encodeCommand_mem (sel : BitVec 2) (s : State) :
    (encodeCommand sel s).mem =
      (s.mem.write txBase [s.encDir, s.encCmd, s.encReg, s.encPlen]).write (txBase + 4 + s.encPlen.toNat)
        [checksumOf s.encReg s.encPlen s.encPayload] := rfl

/-- ENCODE writes around the payload, never into it (40_encode R101). -/
theorem encodeCommand_encPayload (sel : BitVec 2) (s : State) : (encodeCommand sel s).encPayload = s.encPayload :=
  txBytes_congr (n := s.encPlen.toNat) fun j hlo hhi =>
    readByte_encodeCommand sel s (.inr (by simp only [txBase]; omega)) (by simp only [txBase]; omega)

theorem encodeCommand_encodeCommand (sel : BitVec 2) (s : State) :
    encodeCommand sel (encodeCommand sel s) = encodeCommand sel s := by
  have hmem : (encodeCommand sel (encodeCommand sel s)).mem = (encodeCommand sel s).mem := by
    rw [encodeCommand_mem sel (encodeCommand sel s), encodeCommand_encPayload]
    exact Memory.write_write_again s.mem (by simp only [List.length_cons, List.length_nil]; omega)
  have hcsum : (encodeCommand sel (encodeCommand sel s)).csum = (encodeCommand sel s).csum := by
    change csumWord 0#8 (checksumOf s.encReg s.encPlen (encodeCommand sel s).encPayload) = _
    rw [encodeCommand_encPayload]
    rfl
  calc encodeCommand sel (encodeCommand sel s)
      = { encodeCommand sel s with
          mem := (encodeCommand sel (encodeCommand sel s)).mem, csum := (encodeCommand sel (encodeCommand sel s)).csum } := rfl
    _ = encodeCommand sel s := by rw [hmem, hcsum]

/-- VERIFY changes neither RX_LEN nor a buffer byte, so CHK() answers the same again (42_verify R170). -/
theorem verifyCommand_verifyCommand (sel : BitVec 2) (s : State) :
    verifyCommand sel (verifyCommand sel s) = verifyCommand sel s := rfl

/-- DECODE leaves the received frame as it is (10_state R41). -/
theorem decodeCommand_sameReceivedFrame (sel : BitVec 2) (s : State) : sameReceivedFrame s (decodeCommand sel s) := by
  refine ⟨by rw [decodeCommand_frame], fun j _ hj => readByte_decodeCommand sel s (.inl ?_)⟩
  have h3 : (s.rx 3).toNat < 256 := (s.rx 3).isLt
  simp only [rxBase]
  omega

theorem decodeCommand_decodeCommand (sel : BitVec 2) (s : State) :
    decodeCommand sel (decodeCommand sel s) = decodeCommand sel s := by
  by_cases hsel : sel = 3#2
  · subst hsel
    rfl
  · have hsame := decodeCommand_sameReceivedFrame sel s
    have hmem : (s.mem.write dispBase (displayImage (s.decodeResult sel).display)).write dispBase
        (displayImage (s.decodeResult sel).display) = s.mem.write dispBase (displayImage (s.decodeResult sel).display) :=
      Memory.write_write_same _ _ _
    rw [decodeCommand_eq hsel (decodeCommand sel s), check_congr hsame, decodeResult_congr hsame hsel, decodeCommand_eq hsel s]
    simp only [State.withResult, State.setCtrl, State.report, hmem]

/-- Settles O35, a command row at a time: NOP and the illegal words write constants, the others write what they do not read. -/
theorem everyCommandIsIdempotent : Obligations.EveryCommandIsIdempotent := by
  intro i s hsrc
  cases i with
  | nop | decodeIllegalSel | reservedOp => exact ⟨_, rfl, rfl⟩
  | encode sel => exact ⟨_, rfl, congrArg Host.Outcome.next (encodeCommand_encodeCommand sel s)⟩
  | decodeV | decodeI | decodeP => exact ⟨_, rfl, congrArg Host.Outcome.next (decodeCommand_decodeCommand _ s)⟩
  | verify sel => exact ⟨_, rfl, congrArg Host.Outcome.next (verifyCommand_verifyCommand sel s)⟩
  | encFrame | qGet | sFloat | sByte | hConnect | hBaud | hDisconnect => cases hsrc
  | respSetv | respSeti | respTelem | respModel | respHwver | respFwver | respOther => cases hsrc

end Sys2Proof.Machine
end

section
/-!
SUPPORT. Single accesses: the map of the window read region by region (10_state R22, 20_memory R56), what the map refuses, and the
bytes that an aligned access of a buffer reads or stores (R54, R55).
-/

namespace Sys2Proof.Machine

/-! ### Steps on single accesses -/

theorem startsCommand_eq_false {a : Access} (h : ∀ v : Word, a ≠ .store .word 0x000#12 v) : a.startsCommand = false := by
  cases a with
  | load n off => rfl
  | store n off v =>
    cases n with
    | byte | half => rfl
    | word =>
      have hoff : off ≠ 0#12 := fun hoff => h v (by rw [hoff])
      simp [Access.startsCommand, fetchBytes, hoff]

/-- Settles O7. -/
theorem otherAccessesAreServedByTheBus : Obligations.OtherAccessesAreServedByTheBus := by
  intro s a rest hq hne
  have hs : s = s.dequeue (.access a :: rest) := by rw [← hq]; rfl
  calc step s = step (s.dequeue (.access a :: rest)) := congrArg step hs
    _ = hostAccess a (s.dequeue rest) := step_access (startsCommand_eq_false hne)

/-! ### The map of the window -/

theorem regionOf_control {off : Offset} (h : off.toNat < 0x024) : regionOf off = .control (controlAt (off.toNat / 4)) := by
  simp [regionOf, h]

theorem regionOf_dispBuf {off : Offset} (h : 0xC00 ≤ off.toNat ∧ off.toNat < 0xD00) : regionOf off = .dispBuf := by
  unfold regionOf
  simp only
  split_ifs
  any_goals rfl
  all_goals omega

theorem regionOf_unmapped {off : Offset} (h : unmappedOffset off.toNat) : regionOf off = .unmapped := by
  unfold unmappedOffset at h
  unfold regionOf
  simp only
  split_ifs
  any_goals rfl
  all_goals omega

/-- An offset of a buffer byte is one of TX_BUF, RX_BUF or DISP_BUF. -/
theorem regionOf_of_isBufferByte {off : Offset} (h : isBufferByte off.toNat = true) :
    regionOf off = .txBuf ∨ regionOf off = .rxBuf ∨ regionOf off = .dispBuf := by
  simp [isBufferByte] at h
  rcases h with (h | h) | h
  · exact .inl (regionOf_txBuf h)
  · exact .inr (.inl (regionOf_rxBuf h))
  · exact .inr (.inr (regionOf_dispBuf h))

/-- The buffers that the host may write are TX_BUF and RX_BUF (20_memory R54, R57). -/
theorem regionOf_of_writable {off : Offset}
    (h : (0x400 ≤ off.toNat ∧ off.toNat ≤ 0x503) ∨ (0x800 ≤ off.toNat ∧ off.toNat ≤ 0x903)) :
    regionOf off = .txBuf ∨ regionOf off = .rxBuf :=
  h.imp (fun h => regionOf_txBuf (by omega)) fun h => regionOf_rxBuf (by omega)

/-! ### What the map refuses -/

theorem aligned_eq_false {n : AccessSize} {off : Offset} (h : off.toNat % n.bytes ≠ 0) : aligned n off = false := by
  simp [aligned, h]

/-- A read that the map does not allow (20_memory R52, R53, R56). -/
theorem loadAllowed_eq_false {n : AccessSize} {off : Offset} (h : disallowed (.load n off)) : loadAllowed n off = false := by
  rcases h with halign | ⟨hcontrol, hnarrow⟩ | hunmapped
  · simp [loadAllowed, aligned_eq_false halign]
  · simp [loadAllowed, regionOf_control (off := off) (by omega), hnarrow]
  · simp [loadAllowed, regionOf_unmapped hunmapped]

/-- A narrow write of a control register (20_memory R53). -/
theorem storeAllowed_narrow {n : AccessSize} {off : Offset} (hcontrol : off.toNat < 0x024) (hnarrow : n ≠ .word) (v : Word) :
    storeAllowed n off v = false := by
  rw [storeAllowed, regionOf_control hcontrol]
  cases controlAt (off.toNat / 4) <;> simp [hnarrow]

/-- A write of STATUS, TX_LEN, RES_INFO, RES_VAL, DISP_LEN, CSUM or DISP_BUF (20_memory R57). -/
theorem storeAllowed_readOnly {off : Offset} (h : readOnlyOffset off.toNat) (n : AccessSize) (v : Word) :
    storeAllowed n off v = false := by
  unfold readOnlyOffset at h
  by_cases hdisp : 0xC00 ≤ off.toNat
  · simp [storeAllowed, regionOf_dispBuf (off := off) (by omega)]
  · have hindex : off.toNat / 4 = 1 ∨ off.toNat / 4 = 3 ∨ off.toNat / 4 = 5 ∨ off.toNat / 4 = 6 ∨ off.toNat / 4 = 7 ∨
        off.toNat / 4 = 8 := by omega
    rw [storeAllowed, regionOf_control (by omega)]
    rcases hindex with hk | hk | hk | hk | hk | hk <;> simp [hk, controlAt]

/-- A write that the map does not allow (20_memory R52, R53, R56, R57, R58). -/
theorem storeAllowed_eq_false {n : AccessSize} {off : Offset} {v : Word} (h : disallowed (.store n off v)) :
    storeAllowed n off v = false := by
  rcases h with halign | ⟨hcontrol, hnarrow⟩ | hunmapped | hreadOnly | ⟨rfl, rfl, hrange⟩
  · simp [storeAllowed, aligned_eq_false halign]
  · exact storeAllowed_narrow (by omega) hnarrow v
  · simp [storeAllowed, regionOf_unmapped hunmapped]
  · exact storeAllowed_readOnly hreadOnly n v
  · have hrxLen : regionOf 0x010#12 = .control .rxLen := rfl
    simp [storeAllowed, hrxLen]
    omega

/-- 60_exceptions R206: every access that the map does not allow is a bus error of its offset. -/
theorem hostAccess_disallowed {a : Access} (h : disallowed a) (s : State) : hostAccess a s = busError (accessOffset a) s := by
  cases a with
  | load n off => simp [hostAccess, hostLoad, loadAllowed_eq_false h, accessOffset]
  | store n off v => simp [hostAccess, hostStore, storeAllowed_eq_false h, accessOffset]

theorem busError_answersBusError (off : Offset) (s : State) : answersBusError off s (busError off s) :=
  ⟨fun h => by simp [busError, h], fun h => by simp [busError, h]⟩

/-- Settles O51, a cause of BusError at a time. -/
theorem disallowedAccessesAreBusErrors : Obligations.DisallowedAccessesAreBusErrors :=
  ⟨fun a s h => by rw [hostAccess_disallowed h]; exact busError_answersBusError _ s, fun _ _ hv => hostAccess_rxLen hv⟩

/-! ### The bytes of an aligned access -/

theorem AccessSize.bytes_pos (n : AccessSize) : 0 < n.bytes := by cases n <;> decide

/-- Every buffer is whole words, so an aligned access stays inside the buffer it begins in (10_state R34, R35, R36). -/
theorem isBufferByte_add {n : AccessSize} {a k : Nat} (halign : a % n.bytes = 0) (ha : isBufferByte a = true)
    (hk : k < n.bytes) : isBufferByte (a + k) = true := by
  simp [isBufferByte] at ha ⊢
  cases n <;> simp only [AccessSize.bytes] at halign hk <;> omega

/-- The offset of byte k of an aligned access of a buffer. -/
theorem toNat_offset_of_byte {n : AccessSize} {off : Offset} {k : Nat} (halign : off.toNat % n.bytes = 0)
    (hbuf : isBufferByte off.toNat = true) (hk : k < n.bytes) : (off + BitVec.ofNat 12 k).toNat = off.toNat + k := by
  have hin := isBufferByte_add halign hbuf hk
  simp [isBufferByte] at hin
  rw [BitVec.toNat_add, BitVec.toNat_ofNat]
  omega

/-- An aligned read of a buffer answers its bytes (20_memory R54, R55). -/
theorem hostAccess_load_buffer {n : AccessSize} {off : Offset} (halign : off.toNat % n.bytes = 0)
    (hbuf : isBufferByte off.toNat = true) (s : State) :
    hostAccess (.load n off) s = .next { s with response := .data (s.readBuffer n off.toNat) } := by
  rcases regionOf_of_isBufferByte hbuf with hr | hr | hr <;>
    simp [hostAccess, hostLoad, loadAllowed, aligned, halign, hr, State.respond]

/-- `ld.b` of a buffer byte answers the byte, zero-extended (20_memory R51). -/
theorem hostAccess_load_byte {off : Offset} (hbuf : isBufferByte off.toNat = true) (s : State) :
    hostAccess (.load .byte off) s = .next { s with response := .data ((s.readByte off.toNat).setWidth 32) } := by
  rw [hostAccess_load_buffer (Nat.mod_one _) hbuf]
  simp [State.readBuffer, le32]

/-- An aligned write of TX_BUF or RX_BUF stores the data's low bytes (20_memory R54, R55). -/
theorem hostAccess_store_buffer {n : AccessSize} {off : Offset} (halign : off.toNat % n.bytes = 0)
    (hbuf : (0x400 ≤ off.toNat ∧ off.toNat ≤ 0x503) ∨ (0x800 ≤ off.toNat ∧ off.toNat ≤ 0x903)) (v : Word) (s : State) :
    hostAccess (.store n off v) s =
      .next ((s.writeBytes off.toNat ((wordBytes v).take n.bytes)).respond .done) := by
  rcases regionOf_of_writable hbuf with hr | hr <;> simp [hostAccess, hostStore, storeAllowed, aligned, halign, hr]

/-- Byte k of the data that an access of this size writes (20_memory R55). -/
theorem wordBytes_take_getD {n : AccessSize} {k : Nat} (hk : k < n.bytes) (v : Word) :
    ((wordBytes v).take n.bytes).getD k 0#8 = wordByte v k := by
  cases n <;> simp only [AccessSize.bytes] at hk ⊢ <;> interval_cases k <;> rfl

/-- What byte k of an aligned write reads as afterwards. -/
theorem readByte_stored {n : AccessSize} {k : Nat} (hk : k < n.bytes) (a : Nat) (v : Word) (s : State) :
    (s.writeBytes a ((wordBytes v).take n.bytes)).readByte (a + k) = wordByte v k := by
  rw [State.readByte_writeBytes, wordBytes_take_length, if_pos ⟨by omega, by omega⟩, Nat.add_sub_cancel_left,
    wordBytes_take_getD hk]

/-- Settles O54. -/
theorem bufferWritesStoreLittleEndianBytes : Obligations.BufferWritesStoreLittleEndianBytes := by
  intro n off v s halign hbuf
  refine ⟨_, hostAccess_store_buffer halign hbuf v s, rfl, fun k hk => readByte_stored hk off.toNat v s, fun b hb => ?_⟩
  change (s.writeBytes off.toNat ((wordBytes v).take n.bytes)).readByte b = s.readByte b
  rw [State.readByte_writeBytes, wordBytes_take_length, if_neg (by omega)]

/-- Appending bit vectors adds their weights. -/
theorem toNat_append_eq_add {v w : Nat} (x : BitVec v) (y : BitVec w) : (x ++ y).toNat = x.toNat * 2 ^ w + y.toNat := by
  rw [BitVec.toNat_append, ← Nat.shiftLeft_add_eq_or_of_lt y.isLt, Nat.shiftLeft_eq]

/-- `le32` is the sum of its bytes by weight (00_scope R12). -/
theorem le32_toNat (b0 b1 b2 b3 : Byte) :
    (le32 b0 b1 b2 b3).toNat = b0.toNat + b1.toNat * 256 + b2.toNat * 256 ^ 2 + b3.toNat * 256 ^ 3 := by
  have happend : le32 b0 b1 b2 b3 = (b3 ++ b2) ++ (b1 ++ b0) := by
    apply BitVec.eq_of_getLsbD_eq
    intro i hi
    rw [BitVec.getLsbD_append, BitVec.getLsbD_append, BitVec.getLsbD_append]
    interval_cases i <;> simp [le32]
  rw [happend, toNat_append_eq_add, toNat_append_eq_add, toNat_append_eq_add]
  omega

/-- A read of a buffer is the sum of its bytes by weight (20_memory R55). -/
theorem readBuffer_toNat (s : State) (n : AccessSize) (a : Nat) :
    (s.readBuffer n a).toNat = ((List.range n.bytes).map fun k => (s.readByte (a + k)).toNat * 256 ^ k).sum := by
  have hzero : (0#8).toNat = 0 := rfl
  cases n <;> simp only [State.readBuffer, le32_toNat, AccessSize.bytes, List.range_succ, List.range_zero, List.nil_append,
    List.map_append, List.map_cons, List.map_nil, List.sum_append, List.sum_cons, List.sum_nil, hzero, pow_zero, pow_one,
    add_zero, zero_mul, mul_one]

/-- Settles O53. -/
theorem bufferReadsAreLittleEndian : Obligations.BufferReadsAreLittleEndian :=
  fun n off s halign hbuf => ⟨_, hostAccess_load_buffer halign hbuf s, readBuffer_toNat s n off.toNat⟩

/-! ### Wide accesses and their byte accesses -/

theorem wordByte_le32 (b0 b1 b2 b3 : Byte) {k : Nat} (hk : k < 4) :
    wordByte (le32 b0 b1 b2 b3) k = [b0, b1, b2, b3].getD k 0#8 := by
  ext i hi
  interval_cases k <;> interval_cases i <;> simp [le32, wordByte]

/-- Byte k of what a read answers is the buffer byte at offset + k. -/
theorem wordByte_readBuffer {n : AccessSize} {k : Nat} (hk : k < n.bytes) (s : State) (a : Nat) :
    wordByte (s.readBuffer n a) k = s.readByte (a + k) := by
  cases n <;> simp only [AccessSize.bytes] at hk <;> rw [State.readBuffer, wordByte_le32 _ _ _ _ (by omega)] <;>
    interval_cases k <;> rfl

/-- A read is zero-extended (20_memory R51). -/
theorem readBuffer_lt (s : State) (n : AccessSize) (a : Nat) : (s.readBuffer n a).toNat < 256 ^ n.bytes := by
  have hbyte : ∀ b : Byte, b.toNat < 256 := fun b => b.isLt
  have h0 := hbyte (s.readByte a)
  have h1 := hbyte (s.readByte (a + 1))
  cases n with
  | byte => simp [State.readBuffer, le32_toNat, AccessSize.bytes, h0]
  | half => simp [State.readBuffer, le32_toNat, AccessSize.bytes]; omega
  | word => exact (s.readBuffer .word a).isLt

/-- `ld.b` of byte k of an aligned access answers that byte. -/
theorem hostAccess_load_byte_of_access {n : AccessSize} {off : Offset} {k : Nat} {s : State} {b : Byte}
    (halign : off.toNat % n.bytes = 0) (hbuf : isBufferByte off.toNat = true) (hk : k < n.bytes)
    (hb : s.readByte (off.toNat + k) = b) :
    hostAccess (.load .byte (off + BitVec.ofNat 12 k)) s = .next { s with response := .data (b.setWidth 32) } := by
  have hoff := toNat_offset_of_byte halign hbuf hk
  rw [hostAccess_load_byte (by rw [hoff]; exact isBufferByte_add halign hbuf hk), hoff, hb]

/-- A write of TX_BUF or RX_BUF ends where its byte writes do, in offset order (20_memory R68). -/
theorem hostAccesses_byteStores_of_store {n : AccessSize} {off : Offset} (halign : off.toNat % n.bytes = 0)
    (hbuf : (0x400 ≤ off.toNat ∧ off.toNat ≤ 0x503) ∨ (0x800 ≤ off.toNat ∧ off.toNat ≤ 0x903)) (v : Word) (s : State) :
    hostAccesses (byteStores off.toNat ((wordBytes v).take n.bytes)) s =
      .next ((s.writeBytes off.toNat ((wordBytes v).take n.bytes)).respond .done) := by
  have hlen := wordBytes_take_length v n
  refine byteStores_run (fun hnil => ?_) ?_
  · rw [hnil] at hlen
    exact absurd hlen n.bytes_pos.ne
  · rw [hlen]
    exact aligned_access_inside (by simp [aligned, halign]) (regionOf_of_writable hbuf)

/-- Settles O56: the byte writes store the run that the wide write stores, and byte k of either access is the buffer byte at
offset + k. -/
theorem wideAccessesAreTheirByteAccesses : Obligations.WideAccessesAreTheirByteAccesses := by
  constructor
  · intro n off v s halign hwritable
    have hbuf : isBufferByte off.toNat = true := by simp [isBufferByte]; omega
    exact ⟨_, hostAccess_store_buffer halign hwritable v s, hostAccesses_byteStores_of_store halign hwritable v s,
      fun k hk => hostAccess_load_byte_of_access halign hbuf hk (readByte_stored hk off.toNat v s)⟩
  · intro n off s halign hbuf
    exact ⟨_, hostAccess_load_buffer halign hbuf s, readBuffer_lt s n off.toNat,
      fun k hk => hostAccess_load_byte_of_access halign hbuf hk (wordByte_readBuffer hk s off.toNat).symm⟩

end Sys2Proof.Machine
end

section
/-!
SUPPORT. SEND (20_memory R61, R69): the state in the middle of a SEND, the handover after the last read, and the frame that ENCODE
leaves in TX_BUF (40_encode R100, R104).
-/

namespace Sys2Proof.Machine

/-! ### SEND, one byte read a step -/

/-- `s` after the first `k` byte reads of a SEND, before the operations `rest`. -/
def State.sending (s : State) (rest : List HostOp) (k : Nat) : State :=
  { s with
    hostQueue := .send (s.txBytes 0 k) :: rest
    response := if k = 0 then s.response else .data ((s.tx (k - 1)).setWidth 32) }

theorem txBytes_length (s : State) (i n : Nat) : (s.txBytes i n).length = n := by simp [State.txBytes]

theorem txBytes_succ (s : State) (i n : Nat) : s.txBytes i (n + 1) = s.txBytes i n ++ [s.tx (i + n)] := by
  simp [State.txBytes, List.range_succ]

theorem step_send {s : State} {read : List Byte} {rest : List HostOp} (hq : s.hostQueue = .send read :: rest) :
    step s = sendNext read (s.dequeue rest) := by
  simp only [step, hq, fetchBytes, serveHostOp]

theorem step_sending {s : State} {k : Nat} (rest : List HostOp) (hk : k < s.txLen.toNat) (hlen : s.txLen.toNat ≤ 260) :
    step (s.sending rest k) = .next (s.sending rest (k + 1)) := by
  have hread : (s.txBytes 0 k).length = k := txBytes_length s 0 k
  have hnext : s.txBytes 0 (k + 1) = s.txBytes 0 k ++ [s.tx k] := by rw [txBytes_succ, Nat.zero_add]
  have hstep := sendNext_read (read := s.txBytes 0 k) (s := (s.sending rest k).dequeue rest) (hread.trans_lt hk) (by omega)
  rw [step_send rfl, hstep, hread]
  unfold State.sending
  rw [hnext]
  rfl

theorem steps_sending {s : State} {rest : List HostOp} (hq : s.hostQueue = .send [] :: rest) (hlen : s.txLen.toNat ≤ 260)
    {k : Nat} (hk : k ≤ s.txLen.toNat) : steps k s = .next (s.sending rest k) := by
  induction k with
  | zero =>
    have hs : s.sending rest 0 = s := by
      change { s with hostQueue := .send [] :: rest } = s
      rw [← hq]
    rw [steps_zero, hs]
  | succ k ih => rw [steps_add (ih (by omega)), steps_succ_of_next (step_sending rest (by omega) hlen), steps_zero]

/-- Settles O10: TX_LEN reads, then the handover. -/
theorem sendHandsOverTxBufAsItStands : Obligations.SendHandsOverTxBufAsItStands := by
  intro s rest hq hlen
  refine ⟨fun k hk => ⟨_, steps_sending hq hlen hk, rfl⟩, ?_⟩
  have hdone := sendNext_done (read := s.txBytes 0 s.txLen.toNat) (s := (s.sending rest s.txLen.toNat).dequeue rest)
    (txBytes_length s 0 _).ge
  rw [steps_add (steps_sending hq hlen le_rfl), steps_succ_of_next ((step_send rfl).trans hdone), steps_zero]
  rfl

/-! ### The frame that ENCODE builds -/

/-- Reducing the sum modulo 256 once or after every addition gives the same byte (40_encode R104). -/
theorem checksumOf_eq_frameChecksum (reg len : Byte) (payload : List Byte) :
    checksumOf reg len payload = frameChecksum reg len payload := by
  have hfold : ∀ acc : Byte, payload.foldl (· + ·) acc = BitVec.ofNat 8 (acc.toNat + byteSum payload) := by
    induction payload with
    | nil => simp [byteSum]
    | cons b bs ih =>
      intro acc
      rw [List.foldl_cons, ih]
      apply BitVec.eq_of_toNat_eq
      simp [byteSum]
      omega
  rw [frameChecksum, hfold]
  apply BitVec.eq_of_toNat_eq
  simp [checksumOf]

theorem txBytes_add (s : State) (i m n : Nat) : s.txBytes i (m + n) = s.txBytes i m ++ s.txBytes (i + m) n := by
  simp [State.txBytes, List.range_add, Nat.add_assoc, Function.comp_def]

/-- A byte after ENCODE is one after its two writes, of the header and of the checksum behind the payload. -/
theorem encodeCommand_readByte (sel : BitVec 2) (s : State) (a : Nat) :
    (encodeCommand sel s).readByte a =
      ((s.writeBytes txBase [s.encDir, s.encCmd, s.encReg, s.encPlen]).writeBytes (txBase + 4 + s.encPlen.toNat)
        [checksumOf s.encReg s.encPlen s.encPayload]).readByte a := rfl

/-- ENCODE writes the header at TX[0..3] (40_encode R100). -/
theorem encodeCommand_tx_header (sel : BitVec 2) (s : State) :
    (encodeCommand sel s).txBytes 0 4 = [s.encDir, s.encCmd, s.encReg, s.encPlen] := by
  have hbyte : ∀ i, i < 4 → (encodeCommand sel s).tx i = [s.encDir, s.encCmd, s.encReg, s.encPlen].getD i 0#8 := by
    intro i hi
    rw [State.tx, encodeCommand_readByte, State.readByte_writeBytes, if_neg (by omega), State.readByte_writeBytes,
      if_pos (by simp; omega), Nat.add_sub_cancel_left]
  simp [State.txBytes, List.range_succ, hbyte]

/-- ENCODE writes the checksum at TX[4 + PLEN] (40_encode R100). -/
theorem encodeCommand_tx_checksum (sel : BitVec 2) (s : State) :
    (encodeCommand sel s).tx (4 + s.encPlen.toNat) = checksumOf s.encReg s.encPlen s.encPayload := by
  rw [State.tx, ← Nat.add_assoc, encodeCommand_readByte, State.readByte_writeBytes, if_pos (by simp), Nat.sub_self]
  rfl

/-- After ENCODE, TX[0 .. TX_LEN-1] is the wire format's frame of the encoder's inputs (40_encode R100, 30_encoding R70). -/
theorem encodeCommand_txBytes (sel : BitVec 2) (s : State) :
    (encodeCommand sel s).txBytes 0 (s.encPlen.toNat + 5) =
      frameBytes s.encDir s.encCmd s.encReg (s.txBytes 4 s.encPlen.toNat) := by
  have hlen : BitVec.ofNat 8 s.encPlen.toNat = s.encPlen := by simp
  have hpayload : (encodeCommand sel s).txBytes 4 s.encPlen.toNat = s.txBytes 4 s.encPlen.toNat :=
    encodeCommand_encPayload sel s
  rw [show s.encPlen.toNat + 5 = 4 + s.encPlen.toNat + 1 by omega, txBytes_succ, txBytes_add, Nat.zero_add, Nat.zero_add,
    encodeCommand_tx_header, hpayload, encodeCommand_tx_checksum, checksumOf_eq_frameChecksum]
  simp only [frameBytes, txBytes_length, hlen]
  rfl

/-- Settles O9: ENCODE leaves the frame in TX_BUF with TX_LEN its length, and SEND hands TX_BUF over as it stands. -/
theorem sendHandsOverTheEncodedFrameInOffsetOrder : Obligations.SendHandsOverTheEncodedFrameInOffsetOrder := by
  intro s sel rest
  have hlen : (encodeCommand sel s).txLen.toNat = s.encPlen.toNat + 5 := encodeCommand_txLen_toNat sel s
  have hn : s.encPlen.toNat < 256 := s.encPlen.isLt
  have hsend := (sendHandsOverTxBufAsItStands { encodeCommand sel s with hostQueue := .send [] :: rest } rest rfl
    (by rw [hlen]; omega)).2
  simp only [hlen] at hsend
  refine ⟨_, _, rfl, hsend, ?_⟩
  rw [← encodeCommand_txBytes sel s]
  rfl

end Sys2Proof.Machine
end

section
/-!
SUPPORT. Decoder against encoder (30_encoding R83-R91): the fields of a command word, and the opcode table's masks read byte by
byte.
-/

namespace Sys2Proof.Machine

/-! ### Command words -/

@[simp] theorem commandWord_op (op : BitVec 3) (sel : BitVec 2) : (commandWord op sel).extractLsb' 0 3 = op :=
  ctrlWord_op op sel

@[simp] theorem commandWord_sel (op : BitVec 3) (sel : BitVec 2) : (commandWord op sel).extractLsb' 4 2 = sel := by
  revert op sel; decide

/-- The fields of any word make the command word with its ignored bits cleared (30_encoding R83, R86). -/
theorem commandWord_fields (w : Word) :
    commandWord (w.extractLsb' 0 3) (w.extractLsb' 4 2) = w &&& 0x00000037#32 := by
  ext i hi
  interval_cases i <;> simp [commandWord]

theorem decode_ctrl_wordBytes (w : Word) : decode .ctrl (wordBytes w) = .instr (decodeCommandWord w) [] := by
  rw [wordBytes, decode, le32_wordByte]

/-- The row that a command word decodes to encodes to the word of its OP and SEL. -/
theorem encode_decodeCommandWord (w : Word) :
    encode (decodeCommandWord w) = wordBytes (commandWord (w.extractLsb' 0 3) (w.extractLsb' 4 2)) := by
  unfold decodeCommandWord
  generalize w.extractLsb' 0 3 = op
  generalize w.extractLsb' 4 2 = sel
  by_cases hdecode : op = 2#3
  · have hsel : sel = 0#2 ∨ sel = 1#2 ∨ sel = 2#2 ∨ sel = 3#2 := by revert sel; decide
    subst hdecode
    rcases hsel with rfl | rfl | rfl | rfl <;> rfl
  · simp only [hdecode, if_false]
    split_ifs <;> subst_vars <;> rfl

/-- Decode and encode agree on the command rows (30_encoding R83, R84). -/
theorem decode_encode_command {i : Instr} (hw : i.wellFormed = true) (hsrc : i.source = .ctrl) :
    decode .ctrl (encode i) = .instr i [] := by
  cases i with
  | nop sel | encode sel | verify sel => simp [encode, decode_ctrl_wordBytes, decodeCommandWord]
  | decodeV | decodeI | decodeP | decodeIllegalSel => rfl
  | reservedOp op sel =>
    have hop : 4 ≤ op.toNat := of_decide_eq_true hw
    have hne : ∀ n : BitVec 3, n.toNat < 4 → op ≠ n := by rintro n hn rfl; omega
    simp [encode, decode_ctrl_wordBytes, decodeCommandWord, hne]
  | _ => cases hsrc

/-- Settles O2, the command rows and the frame rows apart. -/
theorem everyWellFormedInstructionDecodesFromItsEncoding : Obligations.EveryWellFormedInstructionDecodesFromItsEncoding := by
  intro i hw
  cases hsrc : i.source with
  | ctrl => exact decode_encode_command hw hsrc
  | frame => exact decode_encode_frame hw hsrc

/-- Settles O3. -/
theorem commandWordsKeepOnlyOpAndSel : Obligations.CommandWordsKeepOnlyOpAndSel := fun w => by
  rw [encode_decodeCommandWord, commandWord_fields]

/-- Settles O1. -/
theorem sampleWordsDecodeAsTheSpecWritesThem : Obligations.SampleWordsDecodeAsTheSpecWritesThem := by
  unfold Obligations.SampleWordsDecodeAsTheSpecWritesThem
  decide

/-! ### The opcode table's masks -/

/-- The kind of the first of these rows that a header is in; ENC.FRAME where there is none (30_encoding R89). -/
def firstRow : List FrameRow → Word → FrameKind
  | [], _ => .encFrame
  | r :: rows, h => if h &&& r.mask = r.pattern then r.kind else firstRow rows h

theorem find?_kind_eq_firstRow (rows : List FrameRow) (h : Word) :
    ((rows.find? fun r => h &&& r.mask == r.pattern).map FrameRow.kind).getD .encFrame = firstRow rows h := by
  induction rows with
  | nil => rfl
  | cons r rows ih => by_cases hr : h &&& r.mask = r.pattern <;> simp [firstRow, hr, ih]

theorem classifyByTable_eq_firstRow (h : Word) : classifyByTable h = firstRow frameRows h := by
  rw [classifyByTable, ← find?_kind_eq_firstRow]
  cases frameRows.find? fun r => h &&& r.mask == r.pattern <;> rfl

/-- A header is in a row when each of its bytes is, under the mask's byte (30_encoding R89). -/
theorem hdr32_and_eq_iff (f0 f1 f2 f3 : Byte) (mask pattern : Word) :
    hdr32 f0 f1 f2 f3 &&& mask = pattern ↔
      f0 &&& wordByte mask 3 = wordByte pattern 3 ∧ f1 &&& wordByte mask 2 = wordByte pattern 2 ∧
      f2 &&& wordByte mask 1 = wordByte pattern 1 ∧ f3 &&& wordByte mask 0 = wordByte pattern 0 := by
  have hbyte : ∀ k, k < 4 →
      wordByte (hdr32 f0 f1 f2 f3 &&& mask) k = [f3, f2, f1, f0].getD k 0#8 &&& wordByte mask k := by
    intro k hk
    rw [← wordByte_le32 f3 f2 f1 f0 hk]
    exact BitVec.extractLsb'_and
  constructor
  · rintro rfl
    simp [hbyte]
  · rintro ⟨h0, h1, h2, h3⟩
    rw [← le32_wordByte (_ &&& mask), ← le32_wordByte pattern]
    simp [hbyte, h0, h1, h2, h3]

theorem and_maskByte (b : Byte) : b &&& 0xFF#8 = b := BitVec.and_allOnes

/-- Settles O4: a row's mask compares whole header bytes, and the byte-wise classification asks in the table's order. -/
theorem frameRowsFollowTheTablesMasks : Obligations.FrameRowsFollowTheTablesMasks := by
  intro f0 f1 f2 f3
  rw [classifyByTable_eq_firstRow]
  simp only [frameRows, firstRow, hdr32_and_eq_iff]
  by_cases hresp : f0 = 0xF0#8 ∧ f1 = 0xA1#8
  · obtain ⟨rfl, rfl⟩ := hresp
    simp [frameKind, wordByte, and_maskByte]
  · by_cases hbuilt : f0 = 0xF1#8
    · subst hbuilt
      simp [frameKind, wordByte, and_maskByte]
    · have hrow : ∀ p, ¬ (f0 = 0xF0#8 ∧ f1 = 0xA1#8 ∧ p) := fun p h => hresp ⟨h.1, h.2.1⟩
      simp [frameKind, wordByte, and_maskByte, hresp, hrow, hbuilt]

end Sys2Proof.Machine
end

section
/-!
SUPPORT. RECV (30_encoding R90, 20_memory R69): the state after some of its byte stores, the bytes it leaves in RX_BUF, and what
becomes of the bytes that do not fit (R56, R57, R58, 60_exceptions R206).
-/

namespace Sys2Proof.Machine

/-! ### RECV, one byte stored a step -/

theorem byteStores_append (base : Nat) (bs cs : List Byte) :
    byteStores base (bs ++ cs) = byteStores base bs ++ byteStores (base + bs.length) cs := by
  induction bs generalizing base with
  | nil => rfl
  | cons b bs ih =>
    simp only [List.cons_append, byteStores, ih, List.length_cons, Nat.add_assoc, Nat.add_comm 1]

/-- The first step of RECV is the first of its accesses. -/
theorem step_receive {s : State} {bytes : List Byte} {rest : List HostOp} (hq : s.hostQueue = .receive bytes :: rest) :
    step s = step (s.dequeue ((receiveAccesses bytes).map .access ++ rest)) := by
  have hserve : step s = issueAccesses (receiveAccesses bytes) (s.dequeue rest) := by
    simp only [step, hq, fetchBytes, serveHostOp]
  obtain ⟨a, as, has⟩ := List.exists_cons_of_ne_nil (l := receiveAccesses bytes) (by simp [receiveAccesses])
  rw [hserve, has, issueAccesses_eq_step (receiveAccesses_startsCommand (bytes := bytes) (by simp [has]))]
  rfl

theorem steps_receive {s : State} {bytes : List Byte} {rest : List HostOp} (hq : s.hostQueue = .receive bytes :: rest)
    {k : Nat} (hk : 0 < k) : steps k s = steps k (s.dequeue ((receiveAccesses bytes).map .access ++ rest)) := by
  obtain ⟨j, rfl⟩ := Nat.exists_eq_succ_of_ne_zero hk.ne'
  simp only [steps, step_receive hq]

/-- The accesses of a RECV that are left once `k` bytes are stored. -/
def receiveAccessesAfter (k : Nat) (bytes : List Byte) : List Access :=
  byteStores (0x800 + k) (bytes.drop k) ++ [.store .word 0x010#12 (BitVec.ofNat 32 bytes.length)]

/-- `s` after the first `k` byte stores of a RECV, before the operations `rest`. -/
def State.receiving (s : State) (bytes : List Byte) (rest : List HostOp) (k : Nat) : State :=
  ((s.writeBytes 0x800 (bytes.take k)).respond .done).dequeue ((receiveAccessesAfter k bytes).map .access ++ rest)

theorem receiveAccesses_eq_append {bytes : List Byte} {k : Nat} (hk : k ≤ bytes.length) :
    receiveAccesses bytes = byteStores 0x800 (bytes.take k) ++ receiveAccessesAfter k bytes := by
  have hlen : (bytes.take k).length = k := List.length_take_of_le hk
  rw [receiveAccesses, receiveAccessesAfter, ← List.append_assoc]
  conv_lhs => rw [← List.take_append_drop k bytes, byteStores_append, hlen]
  rw [List.take_append_drop, rxBase]

/-- RECV stores a byte a step while it fills RX_BUF (20_memory R58, R69). -/
theorem steps_receiving {s : State} {bytes : List Byte} {rest : List HostOp} (hq : s.hostQueue = .receive bytes :: rest)
    {k : Nat} (hpos : 0 < k) (hk : k ≤ bytes.length) (hcap : k ≤ 260) :
    steps k s = .next (s.receiving bytes rest k) := by
  have hlen : (bytes.take k).length = k := List.length_take_of_le hk
  have hne : bytes.take k ≠ [] := List.ne_nil_of_length_pos (hpos.trans_eq hlen.symm)
  have hrun := run_accesses (byteStores_run (s := s) hne (.inr ⟨le_rfl, by omega⟩))
    (fun a ha => byteStores_startsCommand ha) 0 ((receiveAccessesAfter k bytes).map .access ++ rest)
  rw [byteStores_length, hlen, Nat.add_zero] at hrun
  rw [steps_receive hq hpos, receiveAccesses_eq_append hk, List.map_append, List.append_assoc, hrun]
  rfl

/-! ### The bytes in RX_BUF -/

/-- A run written at RX[0] is what RX[0..] holds, and every other byte is as before. -/
theorem rxBytes_of_written {s t : State} {bs : List Byte} (h : ∀ b, t.readByte b = (s.writeBytes 0x800 bs).readByte b) :
    t.rxBytes 0 bs.length = bs ∧ sameBytesOutside 0x800 bs.length s t := by
  constructor
  · refine List.ext_getElem (by simp [State.rxBytes]) fun i _ hi => ?_
    simp [State.rxBytes, State.rx, rxBase, h, State.readByte_writeBytes, hi]
  · intro b hb
    rw [h, State.readByte_writeBytes, if_neg (by omega)]

theorem receiving_rxBytes (s : State) {bytes : List Byte} (rest : List HostOp) {k : Nat} (hk : k ≤ bytes.length) :
    (s.receiving bytes rest k).rxBytes 0 k = bytes.take k ∧ sameBytesOutside 0x800 k s (s.receiving bytes rest k) := by
  have h := rxBytes_of_written (s := s) (t := s.receiving bytes rest k) (bs := bytes.take k) fun b => rfl
  rwa [List.length_take_of_le hk] at h

/-- The last access of a RECV of at most 260 bytes sets RX_LEN (20_memory R58). -/
theorem step_receive_rxLen {s : State} {n : Nat} (hn : n ≤ 260) (rest : List HostOp) :
    step (s.dequeue (.access (.store .word 0x010#12 (BitVec.ofNat 32 n)) :: rest)) =
      .next { s with hostQueue := rest, rxLen := BitVec.ofNat 32 n, response := .done } := by
  rw [step_access rfl, hostAccess_rxLen (by rw [BitVec.toNat_ofNat]; omega)]
  rfl

/-- Settles O11: the states in between are those of `steps_receiving`, and the RX_LEN write follows the last of them. -/
theorem receiveFillsRxBufThenRxLen : Obligations.ReceiveFillsRxBufThenRxLen := by
  intro s bytes rest hq hcap
  have hstored : ∀ k, k ≤ bytes.length →
      ∃ v, steps k s = .next v ∧ v.rxBytes 0 k = bytes.take k ∧ v.rxLen = s.rxLen := by
    intro k hk
    rcases Nat.eq_zero_or_pos k with rfl | hpos
    · exact ⟨s, rfl, rfl, rfl⟩
    · exact ⟨_, steps_receiving hq hpos hk (by omega), (receiving_rxBytes s rest hk).1, rfl⟩
  refine ⟨hstored, ?_⟩
  rcases Nat.eq_zero_or_pos bytes.length with hnil | hpos
  · obtain rfl := List.length_eq_zero_iff.1 hnil
    have hstep := (step_receive hq).trans (step_receive_rxLen (s := s) hcap rest)
    exact ⟨_, steps_succ_of_next hstep, rfl, rfl, fun b _ => rfl⟩
  · have hafter : receiveAccessesAfter bytes.length bytes =
        [.store .word 0x010#12 (BitVec.ofNat 32 bytes.length)] := by simp [receiveAccessesAfter, byteStores]
    have hlast := step_receive_rxLen (s := (s.writeBytes 0x800 bytes).respond .done) hcap rest
    obtain ⟨hrx, hsame⟩ := rxBytes_of_written (s := s) (t := { (s.writeBytes 0x800 bytes).respond .done with
      hostQueue := rest, rxLen := BitVec.ofNat 32 bytes.length, response := .done }) (bs := bytes) fun b => rfl
    refine ⟨_, ?_, hrx, rfl, hsame⟩
    rw [steps_add (steps_receiving hq hpos le_rfl hcap), State.receiving, hafter, List.take_length]
    exact steps_succ_of_next hlast

/-! ### The bytes that do not fit -/

/-- `s` once a host that carries on has met bus errors at the offsets `offs` and then at `off` (60_exceptions R206). -/
def State.recordErrors (s : State) (offs : List Offset) (off : Offset) : State :=
  { s with response := .error off, faultLog := s.faultLog ++ offs ++ [off] }

theorem recordErrors_recordErrors (s : State) (first : Offset) (offs : List Offset) (off : Offset) :
    (s.recordErrors [] first).recordErrors offs off = s.recordErrors (first :: offs) off := by
  simp [State.recordErrors]

theorem hostAccess_disallowed_carryOn {a : Access} {s : State} (hcarry : s.hostReaction = .carryOn) (ha : disallowed a) :
    hostAccess a s = .next (s.recordErrors [] (accessOffset a)) := by
  rw [hostAccess_disallowed ha, (busError_answersBusError _ s).2 hcarry, State.recordErrors, List.append_nil]

/-- A run of accesses that the map does not allow, at a host that carries on: each is recorded at its offset, and the last is the
one answered (60_exceptions R206). -/
theorem hostAccesses_disallowed {as : List Access} {a : Access} {s : State} (hcarry : s.hostReaction = .carryOn)
    (has : ∀ b ∈ as, disallowed b) (ha : disallowed a) :
    hostAccesses (as ++ [a]) s = .next (s.recordErrors (as.map accessOffset) (accessOffset a)) := by
  induction as generalizing s with
  | nil => rw [List.nil_append, hostAccesses_cons_of_next (hostAccess_disallowed_carryOn hcarry ha)]; rfl
  | cons b as ih =>
    have hb : disallowed b := has b List.mem_cons_self
    rw [List.cons_append, hostAccesses_cons_of_next (hostAccess_disallowed_carryOn hcarry hb),
      ih (s := s.recordErrors [] _) hcarry fun c hc => has c (List.mem_cons_of_mem _ hc), recordErrors_recordErrors,
      List.map_cons]

theorem byteStores_map_accessOffset {base : Nat} {bs : List Byte} (h : base + bs.length ≤ 0x1000) :
    (byteStores base bs).map accessOffset = (List.range bs.length).map fun k => BitVec.ofNat 12 (base + k) := by
  induction bs generalizing base with
  | nil => rfl
  | cons b bs ih =>
    rw [List.length_cons] at h
    rw [byteStores, List.map_cons, ih (by omega), List.length_cons, List.range_succ_eq_map, List.map_cons, List.map_map]
    congr 1
    · rw [accessOffset, windowOffset, Nat.min_eq_left (by omega), Nat.add_zero]
    · refine List.map_congr_left fun k _ => ?_
      rw [Function.comp_apply, Nat.succ_eq_one_add, Nat.add_assoc]

/-- Behind RX_BUF the host may write nothing up to the window's end (20_memory R56, R57). -/
theorem byteStores_disallowed {base : Nat} {bs : List Byte} (hbase : 0x904 ≤ base) (hend : base + bs.length ≤ 0x1000)
    {a : Access} (ha : a ∈ byteStores base bs) : disallowed a := by
  induction bs generalizing base with
  | nil => cases ha
  | cons b bs ih =>
    rw [List.length_cons] at hend
    rcases List.mem_cons.1 ha with rfl | ha
    · have hoff : (windowOffset base).toNat = base := by
        rw [windowOffset, Nat.min_eq_left (by omega), BitVec.toNat_ofNat]; omega
      simp only [disallowed, hoff, unmappedOffset, readOnlyOffset]
      omega
    · exact ih (by omega) (by omega) ha

/-- Settles O12: after 260 stores every access that is left is one the map does not allow. -/
theorem receiveOfTooManyBytesIsABusError : Obligations.ReceiveOfTooManyBytesIsABusError := by
  intro s bytes rest hq hmore hend
  have hfull := steps_receiving hq (k := 260) (by omega) hmore.le le_rfl
  obtain ⟨hrx, hsame⟩ := receiving_rxBytes s rest hmore.le
  have hrest : 0x800 + 260 + (bytes.drop 260).length ≤ 0x1000 := by rw [List.length_drop]; omega
  constructor
  · intro hstop
    refine ⟨_, hfull, hrx, rfl, hsame, ?_⟩
    obtain ⟨b, bs, hdrop⟩ := List.exists_cons_of_length_pos (l := bytes.drop 260) (by rw [List.length_drop]; omega)
    have hbad : disallowed (.store .byte (windowOffset 0x904) (b.setWidth 32)) :=
      byteStores_disallowed le_rfl hrest (by simp [hdrop, byteStores])
    rw [State.receiving, receiveAccessesAfter, hdrop, byteStores, List.cons_append, List.map_cons, List.cons_append,
      step_access rfl, hostAccess_disallowed hbad]
    exact (busError_answersBusError _ _).1 hstop
  · intro hcarry
    have hrxLen : disallowed (.store .word 0x010#12 (BitVec.ofNat 32 bytes.length)) :=
      .inr (.inr (.inr (.inr ⟨rfl, rfl, by rw [BitVec.toNat_ofNat]; omega⟩)))
    have hleft : hostAccesses (receiveAccessesAfter 260 bytes) ((s.writeBytes 0x800 (bytes.take 260)).respond .done) = _ :=
      hostAccesses_disallowed hcarry (fun a ha => byteStores_disallowed le_rfl hrest ha) hrxLen
    have hrun := run_accesses hleft (fun a ha => receiveAccesses_startsCommand
      ((receiveAccesses_eq_append hmore.le).symm ▸ List.mem_append_right _ ha)) 0 rest
    have hcount : bytes.length + 1 = 260 + (receiveAccessesAfter 260 bytes).length := by
      simp [receiveAccessesAfter, byteStores_length]; omega
    rw [byteStores_map_accessOffset hrest, List.length_drop] at hrun
    rw [hcount, steps_add hfull]
    exact ⟨_, hrun, hrx, rfl, hsame⟩

end Sys2Proof.Machine
end

section
/-!
SUPPORT. ENCODE (40_encode R100, R104, R105): the checksum it computes, the registers it writes, and the bytes of TX_BUF.
-/

namespace Sys2Proof.Machine

/-! ### The checksum -/

/-- A byte is at most 255, so a run of them sums to at most 255 times its length. -/
theorem byteSum_le (bs : List Byte) : byteSum bs ≤ bs.length * 255 := by
  have h := List.sum_le_card_nsmul (bs.map BitVec.toNat) 255 fun n hn => by
    obtain ⟨b, -, rfl⟩ := List.mem_map.1 hn
    exact Nat.le_of_lt_succ b.isLt
  simpa [byteSum] using h

/-- Settles O22: the fold that reduces after every addition is the exact sum reduced once, and 257 bytes sum to at most
257 * 255 = 65535. -/
theorem checksumSumsModulo256 : Obligations.ChecksumSumsModulo256 := by
  intro reg len payload
  refine ⟨checksumOf_eq_frameChecksum reg len payload, fun hlen => ?_⟩
  have hreg : reg.toNat < 256 := reg.isLt
  have hplen : len.toNat < 256 := len.isLt
  have hsum := byteSum_le payload
  omega

/-- Reducing to 8 bits is reducing modulo 256, so the reduction of `checksumOf` is the one the byte makes. -/
theorem checksumOf_eq_ofNat (reg len : Byte) (payload : List Byte) :
    checksumOf reg len payload = BitVec.ofNat 8 (reg.toNat + len.toNat + (payload.map BitVec.toNat).sum) :=
  BitVec.eq_of_toNat_eq (by simp [checksumOf, byteSum])

/-- ENCODE writes RECV = 0, so CSUM reads as the computed byte (10_state R33). -/
theorem csumWord_computed (computed : Byte) : csumWord 0#8 computed = computed.setWidth 32 := by
  simp [csumWord]

/-! ### What ENCODE writes -/

/-- ENCODE's registers (40_encode R105): every field but CTRL, STATUS, TX_LEN, CSUM and the buffers is as before. -/
theorem encodeCommand_frame (sel : BitVec 2) (s : State) :
    encodeCommand sel s = { s with
      ctrl := sel.setWidth 32 <<< 4 ||| 1#32, status := 0x00000100#32,
      txLen := BitVec.ofNat 32 (s.encPlen.toNat + 5),
      csum := (checksumOf s.encReg s.encPlen s.encPayload).setWidth 32, mem := (encodeCommand sel s).mem } := by
  rw [← csumWord_computed]
  rfl

/-- Settles O20. -/
theorem encodeBuildsTheFrameInPlace : Obligations.EncodeBuildsTheFrameInPlace := by
  intro sel s n sum
  have hsum : checksumOf s.encReg s.encPlen s.encPayload = sum := checksumOf_eq_ofNat _ _ _
  have hheader : [(encodeCommand sel s).tx 0, (encodeCommand sel s).tx 1, (encodeCommand sel s).tx 2,
      (encodeCommand sel s).tx 3] = [s.encDir, s.encCmd, s.encReg, s.encPlen] := encodeCommand_tx_header sel s
  simp only [List.cons.injEq, and_true] at hheader
  obtain ⟨hdir, hcmd, hreg, hplen⟩ := hheader
  refine ⟨encodeCommand sel s, rfl, hdir, hcmd, hreg, hplen, (encodeCommand_tx_checksum sel s).trans hsum, ?_, ?_⟩
  · exact fun a hheader hchecksum => readByte_encodeCommand sel s (by omega) hchecksum
  · rw [← hsum]
    exact encodeCommand_frame sel s

/-- Settles O21. -/
theorem encodedFrameIsTheWireFrame : Obligations.EncodedFrameIsTheWireFrame := by
  intro sel s
  have hlen := encodeCommand_txLen_toNat sel s
  refine ⟨encodeCommand sel s, rfl, hlen, ?_⟩
  rw [hlen]
  exact encodeCommand_txBytes sel s

end Sys2Proof.Machine
end

section
/-!
SUPPORT. The helper rows (40_encode R110-R116): payload stores, ENC_HDR, ENCODE. One lemma says what every helper builds; a row's
obligation is that lemma at the row's header and payload.
-/

namespace Sys2Proof.Machine

/-! ### The header word -/

/-- ENC_HDR holds the four header bytes, the direction lowest (10_state R26). -/
theorem le32_eq_append (b0 b1 b2 b3 : Byte) : le32 b0 b1 b2 b3 = (b3 ++ b2) ++ (b1 ++ b0) :=
  BitVec.eq_of_toNat_eq (by
    rw [le32_toNat, toNat_append_eq_add, toNat_append_eq_add, toNat_append_eq_add]
    omega)

/-- The encoder's inputs under a header that `le32` assembled are its bytes. -/
theorem encoderInputs_of_encHdr {s : State} {dir cmd reg plen : Byte} (h : s.encHdr = le32 dir cmd reg plen) :
    s.encDir = dir ∧ s.encCmd = cmd ∧ s.encReg = reg ∧ s.encPlen = plen := by
  unfold State.encDir State.encCmd State.encReg State.encPlen
  rw [h]
  exact ⟨wordByte_le32 dir cmd reg plen (k := 0) (by decide), wordByte_le32 dir cmd reg plen (k := 1) (by decide),
    wordByte_le32 dir cmd reg plen (k := 2) (by decide), wordByte_le32 dir cmd reg plen (k := 3) (by decide)⟩

/-! ### The payload stores -/

/-- `u` is `s` with this payload at TX[4..] (40_encode R101); the bus response is the last store's. -/
def payloadStored (payload : List Byte) (s u : State) : Prop :=
  u = { s with mem := u.mem, response := u.response } ∧ ∀ b, u.readByte b = (s.writeBytes 0x404 payload).readByte b

/-- From every state these accesses put the payload at TX[4..]; none of them starts a command. -/
def storesPayload (stores : List Access) (payload : List Byte) : Prop :=
  (∀ a ∈ stores, a.startsCommand = false) ∧ ∀ s, ∃ u, hostAccesses stores s = .next u ∧ payloadStored payload s u

/-- A run written at TX[4] is what TX[4..] holds. -/
theorem txBytes_of_written {payload : List Byte} {s u : State}
    (hbytes : ∀ b, u.readByte b = (s.writeBytes 0x404 payload).readByte b) : u.txBytes 4 payload.length = payload := by
  refine List.ext_getElem (by simp [State.txBytes]) fun i _ hi => ?_
  have hat : txBase + (4 + i) = 0x404 + i := by unfold txBase; omega
  simp [State.txBytes, State.tx, hat, hbytes, State.readByte_writeBytes, hi]

/-- `st.b 0x404+i, p_i` (40_encode R110) for any payload that a frame can hold, the empty one included. -/
theorem byteStores_storesPayload {payload : List Byte} (hlen : payload.length ≤ 255) :
    storesPayload (byteStores 0x404 payload) payload := by
  refine ⟨fun a ha => byteStores_startsCommand ha, fun s => ?_⟩
  by_cases hne : payload = []
  · subst hne
    refine ⟨s, rfl, rfl, fun b => ?_⟩
    rw [State.readByte_writeBytes, if_neg (by simp)]
  · exact ⟨_, byteStores_run hne (.inl ⟨by omega, by omega⟩), rfl, fun b => rfl⟩

/-- `st.w 0x404, bits` (40_encode R112). -/
theorem wordStore_storesPayload (bits : Word) : storesPayload [.store .word 0x404#12 bits] (wordBytes bits) := by
  refine ⟨fun a ha => ?_, fun s => ⟨(s.writeBytes 0x404 (wordBytes bits)).respond .done, rfl, rfl, fun b => rfl⟩⟩
  rw [List.mem_singleton.1 ha]
  rfl

/-! ### ENCODE on what the stores leave -/

/-- What a helper with this header and payload leaves in TX_BUF, ENC_HDR and CSUM (40_encode R110), and nothing else changed. -/
def frameBuilt (dir cmd reg : Byte) (payload : List Byte) (s t : State) : Prop :=
  t.txBytes 0 (payload.length + 5) = frameBytes dir cmd reg payload ∧
  t.encHdr = le32 dir cmd reg (BitVec.ofNat 8 payload.length) ∧
  t.csum = (frameChecksum reg (BitVec.ofNat 8 payload.length) payload).setWidth 32 ∧
  onlyFrameBuilt (payload.length + 5) s t

/-- A helper ends in the state of ENCODE on the payload and the header it stored (40_encode R110). -/
theorem encodeCommand_frameBuilt (dir cmd reg : Byte) {payload : List Byte} (hlen : payload.length ≤ 255) {s u : State}
    (hu : payloadStored payload s u) :
    frameBuilt dir cmd reg payload s (encodeCommand 0#2
      { u with encHdr := le32 dir cmd reg (BitVec.ofNat 8 payload.length), response := .done }) := by
  generalize hv : ({ u with
    encHdr := le32 dir cmd reg (BitVec.ofNat 8 payload.length), response := .done } : State) = v
  have hhdr : v.encHdr = le32 dir cmd reg (BitVec.ofNat 8 payload.length) := by rw [← hv]
  obtain ⟨hregs, hbytes⟩ := hu
  have hstored : ∀ b, v.readByte b = (s.writeBytes 0x404 payload).readByte b := by
    rw [← hv]
    exact hbytes
  have hpayload : v.txBytes 4 payload.length = payload := txBytes_of_written hstored
  obtain ⟨hdir, hcmd, hreg, hplen⟩ := encoderInputs_of_encHdr hhdr
  have hn : v.encPlen.toNat = payload.length := by rw [hplen, BitVec.toNat_ofNat]; omega
  have hframe := encodeCommand_frame 0#2 v
  rw [State.encPayload, hn, hpayload, hreg, hplen, checksumOf_eq_frameChecksum] at hframe
  refine ⟨?_, hhdr, congrArg State.csum hframe, ?_, fun b hb => ?_⟩
  · rw [← hn, encodeCommand_txBytes, hn, hpayload, hdir, hcmd, hreg]
  · rw [hframe, ← hv, hregs]
    rfl
  · rw [readByte_encodeCommand 0#2 v (by omega) (by omega), hstored, State.readByte_writeBytes, if_neg (by omega)]

/-- Every helper row completes, one access a step, with its frame built (40_encode R110, 10_state R43). -/
theorem buildFrame_builds {i : Instr} {stores : List Access} {dir cmd reg : Byte} {payload : List Byte} {s : State}
    (hstores : storesPayload stores payload) (hlen : payload.length ≤ 255)
    (hexec : exec i s = buildFrame stores (le32 dir cmd reg (BitVec.ofNat 8 payload.length)) s) :
    ∃ t, completesIn (stores.length + 1) i s t ∧ frameBuilt dir cmd reg payload s t := by
  obtain ⟨hcommand, hrun⟩ := hstores
  obtain ⟨u, hu, hstored⟩ := hrun s
  obtain ⟨t, ht, hqueue, hsteps⟩ := buildFrame_completes hu hcommand
  exact ⟨_, ⟨t, hexec.trans ht, hqueue, hsteps⟩, encodeCommand_frameBuilt dir cmd reg hlen hstored⟩

/-! ### The rows -/

/-- Settles O42. -/
theorem genericFrameBuildsItsFrame : Obligations.GenericFrameBuildsItsFrame := by
  intro dir cmd reg payload s hlen n sum
  have hexec : exec (.encFrame dir cmd reg payload) s =
      buildFrame (byteStores 0x404 payload) (le32 dir cmd reg (BitVec.ofNat 8 payload.length)) s := if_neg (by omega)
  obtain ⟨t, hcompletes, htx, hhdr, hcsum, honly⟩ := buildFrame_builds (byteStores_storesPayload hlen) hlen hexec
  rw [byteStores_length] at hcompletes
  have hsum : frameChecksum reg (BitVec.ofNat 8 n) payload = sum := by
    rw [← checksumOf_eq_frameChecksum, checksumOf_eq_ofNat, BitVec.toNat_ofNat, Nat.mod_eq_of_lt (by omega)]
  refine ⟨t, hcompletes, ?_, hhdr.trans (le32_eq_append _ _ _ _), hsum ▸ hcsum, honly⟩
  rw [← hsum]
  exact htx

/-- A helper with no payload completes in one more access; its checksum byte is the register (40_encode R111, R116). -/
theorem emptyFrame_builds {i : Instr} {cmd reg : Byte} {s : State}
    (hexec : exec i s = buildFrame [] (le32 0xF1#8 cmd 0#8 0x00#8 ||| reg.setWidth 32 <<< 16) s) :
    ∃ t, completesIn 1 i s t ∧ t.txBytes 0 5 = [0xF1#8, cmd, reg, 0x00#8, reg] ∧
      t.encHdr = le32 0xF1#8 cmd 0#8 0x00#8 ||| reg.setWidth 32 <<< 16 ∧ t.csum = reg.setWidth 32 ∧
      onlyFrameBuilt 5 s t := by
  rw [← le32_reg] at hexec ⊢
  have hsum : frameChecksum reg 0x00#8 [] = reg := BitVec.add_zero reg
  have hframe : frameBytes 0xF1#8 cmd reg [] = [0xF1#8, cmd, reg, 0x00#8, frameChecksum reg 0x00#8 []] := rfl
  obtain ⟨t, hcompletes, htx, hhdr, hcsum, honly⟩ :=
    buildFrame_builds (byteStores_storesPayload (payload := []) (by decide)) (by decide) hexec
  rw [hsum] at hframe
  exact ⟨t, hcompletes, htx.trans hframe, hhdr, hsum ▸ hcsum, honly⟩

/-- A helper with a payload of one byte completes in two more accesses (40_encode R113, R114, R115). -/
theorem byteFrame_builds {i : Instr} {cmd reg value : Byte} {s : State}
    (hexec : exec i s = buildFrame [.store .byte 0x404#12 (value.setWidth 32)]
      (le32 0xF1#8 cmd 0#8 0x01#8 ||| reg.setWidth 32 <<< 16) s) :
    ∃ t, completesIn 2 i s t ∧ t.txBytes 0 6 = [0xF1#8, cmd, reg, 0x01#8, value, reg + 1#8 + value] ∧
      t.encHdr = le32 0xF1#8 cmd 0#8 0x01#8 ||| reg.setWidth 32 <<< 16 ∧ t.csum = (reg + 1#8 + value).setWidth 32 ∧
      onlyFrameBuilt 6 s t := by
  rw [← le32_reg] at hexec ⊢
  exact buildFrame_builds (byteStores_storesPayload (payload := [value]) (by simp)) (by simp) hexec

/-- Settles O38. -/
theorem queryBuildsItsFrame : Obligations.QueryBuildsItsFrame := fun _ _ => emptyFrame_builds rfl

/-- Settles O40. -/
theorem setByteBuildsItsFrame : Obligations.SetByteBuildsItsFrame := fun _ _ _ => byteFrame_builds rfl

/-- Settles O41: connect and baud carry one byte, disconnect none. -/
theorem handshakesBuildTheirFrames : Obligations.HandshakesBuildTheirFrames := by
  intro hh index s
  have hconnect : hh + 2#8 = hh + 1#8 + 0x01#8 := (BitVec.add_assoc hh 1#8 1#8).symm
  refine ⟨?_, byteFrame_builds rfl, emptyFrame_builds rfl⟩
  rw [hconnect]
  exact byteFrame_builds rfl

/-- Settles O39: the payload is the word's four bytes, lowest first, so its sum is taken in that order. -/
theorem setFloatBuildsItsFrame : Obligations.SetFloatBuildsItsFrame := by
  intro reg bits s
  have hheader : 0x0400B1F1#32 ||| reg.setWidth 32 <<< 16 = le32 0xF1#8 0xB1#8 reg 0x04#8 :=
    (le32_reg 0xF1#8 0xB1#8 reg 0x04#8).symm
  have hexec : exec (.sFloat reg bits) s =
      buildFrame [.store .word 0x404#12 bits] (0x0400B1F1#32 ||| reg.setWidth 32 <<< 16) s := rfl
  rw [hheader] at hexec ⊢
  exact buildFrame_builds (wordStore_storesPayload bits) (by simp [wordBytes]) hexec

/-! ### Payloads that no frame holds -/

/-- What a row with a payload decodes to is built from at most the declared number of bytes. -/
theorem withPayload_eq_instr {n : Nat} {body rest : List Byte} {k : List Byte → Instr} {i : Instr}
    (h : withPayload n body k = .instr i rest) : ∃ payload, payload.length ≤ n ∧ k payload = i := by
  unfold withPayload at h
  split at h
  · cases h
  · exact ⟨body.take n, List.length_take_le n body, (Decoded.instr.inj h).1⟩

theorem decodeCommandWord_ne_encFrame {w : Word} {dir cmd reg : Byte} {payload : List Byte} :
    decodeCommandWord w ≠ .encFrame dir cmd reg payload := by
  intro h
  have hsrc := decodeCommandWord_source w
  rw [h] at hsrc
  cases hsrc

/-- A frame whose row is ENC.FRAME has a payload that its length byte counts; no other row decodes to it (30_encoding R89,
R91). -/
theorem decodeFrameBody_encFrame_length {f0 f1 f2 f3 : Byte} {body rest : List Byte} {dir cmd reg : Byte}
    {payload : List Byte} (h : decodeFrameBody f0 f1 f2 f3 body = .instr (.encFrame dir cmd reg payload) rest) :
    payload.length ≤ f3.toNat := by
  unfold decodeFrameBody at h
  cases hrow : frameKind f0 f1 f2 f3 with
  | encFrame =>
    rw [hrow] at h
    obtain ⟨taken, htaken, heq⟩ := withPayload_eq_instr h
    cases heq
    exact htaken
  | qGet | hDisconnect | sByte | hConnect | hBaud | sFloat =>
    rw [hrow] at h
    obtain ⟨_, -, heq⟩ := withPayload_eq_instr h
    cases heq
  | respSetv | respSeti | respTelem | respModel | respHwver | respFwver | respOther =>
    rw [hrow] at h
    cases h

/-- Settles O43: a length byte counts at most 255, and the command words decode to command rows. -/
theorem overlongPayloadIsRefused : Obligations.OverlongPayloadIsRefused := by
  refine ⟨fun dir cmd reg payload s hlong => if_pos hlong, fun src bytes rest dir cmd reg payload h => ?_⟩
  unfold decode at h
  split at h
  next => exact absurd (Decoded.instr.inj h).1 decodeCommandWord_ne_encFrame
  next => cases h
  next f0 f1 f2 f3 body =>
    have hlen := decodeFrameBody_encFrame_length h
    have hbyte : f3.toNat < 256 := f3.isLt
    omega
  next => cases h

end Sys2Proof.Machine
end

section
/-!
SUPPORT. DECODE (41_decode R130-R152): its outcome is what `State.decodeResult` answers, so each rule of its chapter is a fact about
that result.
-/

namespace Sys2Proof.Machine

/-! ### The outcome of a DECODE, from its result -/

/-- Settles O18. -/
theorem illegalSelectorPerformsNoDecode : Obligations.IllegalSelectorPerformsNoDecode := fun _ => rfl

/-- The three decode rows are DECODE with their legal selector (30_encoding R85). -/
theorem exec_decodeRow {i : Instr} {sel : BitVec 2} (h : (i, sel) ∈ decodeRows) :
    sel ≠ 3#2 ∧ ∀ s, exec i s = .next (decodeCommand sel s) := by
  simp only [decodeRows, List.mem_cons, Prod.mk.injEq, List.not_mem_nil, or_false] at h
  rcases h with ⟨rfl, rfl⟩ | ⟨rfl, rfl⟩ | ⟨rfl, rfl⟩ <;> exact ⟨by decide, fun _ => rfl⟩

/-- RES_INFO is the four bytes RREG, RLEN, TAG, 0 (10_state R29). -/
theorem resInfoWord_eq_infoWord (tag : Tag) (rlen rreg : Byte) : resInfoWord tag rlen rreg = infoWord tag.code rlen rreg := by
  have hbytes : resInfoWord tag rlen rreg = le32 rreg rlen (tag.code.setWidth 8) 0#8 := by
    have htag : (tag.code.setWidth 8).setWidth 32 = tag.code.setWidth 32 := by cases tag <;> rfl
    rw [resInfoWord, le32, htag, BitVec.or_assoc, BitVec.or_comm, BitVec.or_comm (rlen.setWidth 32 <<< 8)]
    simp
  have hhigh : 0#8 ++ tag.code.setWidth 8 = 0#13 ++ tag.code := by cases tag <;> rfl
  rw [hbytes, le32_eq_append, hhigh]
  rfl

/-- The fields that a DECODE with a legal selector reports (41_decode R130, R131). -/
theorem decodeCommand_fields {sel : BitVec 2} (hsel : sel ≠ 3#2) (s : State) :
    (decodeCommand sel s).err = (s.decodeResult sel).err.code ∧ (decodeCommand sel s).lastOp = 2#3 ∧
    (decodeCommand sel s).csumOk = s.check.ok ∧ (decodeCommand sel s).csumPresent = s.check.present ∧
    (decodeCommand sel s).tag = (s.decodeResult sel).tag.code ∧ (decodeCommand sel s).rlen = (s.decodeResult sel).rlen ∧
    (decodeCommand sel s).rreg = (s.decodeResult sel).rreg := by
  rw [decodeCommand_eq hsel]
  exact ⟨State.report_err _ _ _ _ _, State.report_lastOp _ _ _ _ _, State.report_csumOk _ _ _ _ _,
    State.report_csumPresent _ _ _ _ _, resInfoWord_tag _ _ _, resInfoWord_rlen _ _ _, resInfoWord_rreg _ _ _⟩

theorem decodeCommand_csum {sel : BitVec 2} (hsel : sel ≠ 3#2) (s : State) :
    (decodeCommand sel s).csum = csumWord s.check.received s.check.computed := by
  rw [decodeCommand_eq hsel]
  rfl

theorem decodeCommand_resVal {sel : BitVec 2} (hsel : sel ≠ 3#2) (s : State) :
    (decodeCommand sel s).resVal = (s.decodeResult sel).value := by
  rw [decodeCommand_eq hsel]
  rfl

/-- CHK() on a buffer without a checksum byte inside (42_verify R172, R173). -/
theorem check_of_absent {s : State} (h : s.rxLen.toNat < 4 ∨ s.rxLen.toNat < 5 + (s.rx 3).toNat) :
    s.check = ⟨false, false, 0#8, 0#8⟩ := by
  simp only [State.check, show s.rxCount = s.rxLen.toNat from rfl]
  rcases h with h | h
  · rw [if_pos h]
  · rw [if_pos h, ite_self]

/-- CHK() on a frame with its checksum byte inside the buffer (42_verify R171). -/
theorem check_of_present {s : State} (h4 : 4 ≤ s.rxLen.toNat) (h : 5 + (s.rx 3).toNat ≤ s.rxLen.toNat) :
    s.check = ⟨decide (frameChecksum (s.rx 2) (s.rx 3) (s.rxBytes 4 (s.rx 3).toNat) = s.rx (4 + (s.rx 3).toNat)), true,
      frameChecksum (s.rx 2) (s.rx 3) (s.rxBytes 4 (s.rx 3).toNat), s.rx (4 + (s.rx 3).toNat)⟩ := by
  simp only [State.check, show s.rxCount = s.rxLen.toNat from rfl]
  rw [if_neg (by omega), if_neg (by omega), checksumOf_eq_frameChecksum]
  rfl

/-- What CHK() answers is the checksum report of DECODE and VERIFY (42_verify R171, R172, R173). -/
theorem checksumReported_of_check {s t : State} (hok : t.csumOk = s.check.ok) (hpresent : t.csumPresent = s.check.present)
    (hcsum : t.csum = csumWord s.check.received s.check.computed) : checksumReported s t := by
  unfold checksumReported
  rw [hok, hpresent, hcsum]
  constructor
  · intro hshort
    rw [check_of_absent hshort]
    exact ⟨rfl, rfl, rfl⟩
  · rintro ⟨h4, hin⟩
    rw [check_of_present h4 hin]
    exact ⟨rfl, rfl, rfl⟩

/-- DISP_BUF holds the display bytes and then zeros (41_decode R132, R144). -/
theorem decodeCommand_displays {sel : BitVec 2} (hsel : sel ≠ 3#2) (s : State) :
    displays (s.decodeResult sel).display (decodeCommand sel s) := by
  intro i hi
  have hlt := (decodeResult_consistent s sel).display_lt
  rw [decodeCommand_eq hsel]
  change (s.writeBytes dispBase (displayImage (s.decodeResult sel).display)).readByte (dispBase + i) = _
  rw [State.readByte_writeBytes, displayImage_length hlt, if_pos (by omega), Nat.add_sub_cancel_left]
  generalize (s.decodeResult sel).display = shown
  rw [displayImage, List.getD_eq_getElem?_getD, List.getD_eq_getElem?_getD, List.getElem?_append]
  split_ifs with h
  · rfl
  · rw [List.getElem?_replicate, if_pos (by omega), List.getElem?_eq_none (by omega)]
    rfl

/-- The outcome of a DECODE with a legal selector is that of its result (41_decode R130). -/
theorem decodeCommand_outcome {sel : BitVec 2} (hsel : sel ≠ 3#2) {s : State} {r : DecodeResult} (hr : s.decodeResult sel = r) :
    decodeOutcome sel r.err.code (infoWord r.tag.code r.rlen r.rreg) r.value r.display s (decodeCommand sel s) := by
  subst hr
  obtain ⟨herr, hop, hok, hpresent, -⟩ := decodeCommand_fields hsel s
  have heq := decodeCommand_eq hsel s
  have hlen : (decodeCommand sel s).dispLen = BitVec.ofNat 32 (s.decodeResult sel).display.length := by rw [heq]; rfl
  have hlt := (decodeResult_consistent s sel).display_lt
  refine ⟨by rw [heq]; rfl, herr, hop, checksumReported_of_check hok hpresent (decodeCommand_csum hsel s), ?_,
    decodeCommand_resVal hsel s, ?_, decodeCommand_displays hsel s, decodeCommand_frame sel s,
    fun a ha => readByte_decodeCommand sel s ha⟩
  · rw [← resInfoWord_eq_infoWord, heq]
    rfl
  · rw [hlen, BitVec.toNat_ofNat]
    omega

theorem exec_decodeRow_outcome {i : Instr} {sel : BitVec 2} (hrow : (i, sel) ∈ decodeRows) {s : State} {r : DecodeResult}
    (hr : s.decodeResult sel = r) :
    ∃ t, exec i s = .next t ∧ decodeOutcome sel r.err.code (infoWord r.tag.code r.rlen r.rreg) r.value r.display s t := by
  obtain ⟨hsel, hexec⟩ := exec_decodeRow hrow
  exact ⟨_, hexec s, decodeCommand_outcome hsel hr⟩

/-! ### The result of a DECODE, by the gate and the register's shape -/

theorem responseGate_iff {s : State} : s.responseGate = true ↔ 6 < s.rxLen.toNat ∧ s.rx 0 = 0xF0#8 ∧ s.rx 1 = 0xA1#8 := by
  simp only [State.responseGate, Bool.and_eq_true, beq_iff_eq, decide_eq_true_eq]
  rfl

/-- A buffer that fails the gate (41_decode R134). -/
theorem decodeResult_of_not_gate {s : State} (h : ¬ (6 < s.rxLen.toNat ∧ s.rx 0 = 0xF0#8 ∧ s.rx 1 = 0xA1#8)) (sel : BitVec 2) :
    s.decodeResult sel = noValue .notAResponse .none 0#8 0#8 :=
  if_neg (mt responseGate_iff.1 h)

/-- A frame that passes the gate is extracted by its register's shape (41_decode R135, R140). -/
theorem decodeResult_of_gate {s : State} (hgate : s.responseGate = true) {shape : Shape} (hshape : shapeOf (s.rx 2) = shape)
    (sel : BitVec 2) : s.decodeResult sel = s.extract shape sel (s.rx 2) (s.rx 3) := by
  rw [State.decodeResult, if_pos hgate, hshape]

/-- The least payload that a shape is extracted from (41_decode R138); no test applies to a register outside the table (R145). -/
def Shape.minPayload : Shape → Nat
  | .float _ => 4
  | .triple => 12
  | .string => 0
  | .unknown => 0

/-- The payload lies inside the received bytes and is long enough for the shape (41_decode R137, R138). -/
def State.payloadFits (s : State) (shape : Shape) : Prop :=
  4 + (s.rx 3).toNat ≤ s.rxLen.toNat ∧ shape.minPayload ≤ (s.rx 3).toNat

theorem extract_truncated {s : State} {shape : Shape} (hknown : shape ≠ .unknown) (h : ¬ s.payloadFits shape) (sel : BitVec 2)
    (reg : Byte) : s.extract shape sel reg (s.rx 3) = noValue .truncated .none (s.rx 3) reg := by
  have hcount : s.rxCount = s.rxLen.toNat := rfl
  unfold State.payloadFits at h
  cases shape with
  | unknown => exact absurd rfl hknown
  | float | triple | string =>
    simp only [Shape.minPayload] at h
    simp only [State.extract, hcount]
    rw [if_pos (by omega)]

theorem extract_float {s : State} {tag : Tag} (h : s.payloadFits (.float tag)) (sel : BitVec 2) (reg : Byte) :
    s.extract (.float tag) sel reg (s.rx 3) = { noValue .ok tag (s.rx 3) reg with value := s.rxFloat 4 } := by
  obtain ⟨hin, hmin⟩ := h
  simp only [Shape.minPayload] at hmin
  exact if_neg (by simp only [State.rxCount]; omega)

theorem extract_triple {s : State} (h : s.payloadFits .triple) (sel : BitVec 2) (reg : Byte) :
    s.extract .triple sel reg (s.rx 3) =
      { noValue .ok (telemetryTag sel) (s.rx 3) reg with value := s.rxFloat (4 + 4 * sel.toNat) } := by
  obtain ⟨hin, hmin⟩ := h
  simp only [Shape.minPayload] at hmin
  exact if_neg (by simp only [State.rxCount]; omega)

theorem extract_string {s : State} (h : s.payloadFits .string) (sel : BitVec 2) (reg : Byte) :
    s.extract .string sel reg (s.rx 3) =
      { noValue .ok .byteString (s.rx 3) reg with display := (s.rxBytes 4 (s.rx 3).toNat).filter printable } := by
  obtain ⟨hin, -⟩ := h
  exact if_neg (by simp only [State.rxCount]; omega)

theorem extract_unknown (s : State) (sel : BitVec 2) (reg dlen : Byte) :
    s.extract .unknown sel reg dlen = noValue .ok .unknown dlen reg := rfl

/-- RES_INFO names the register and the declared length, whatever is extracted (41_decode R135). -/
theorem extract_names (s : State) (shape : Shape) (sel : BitVec 2) (reg dlen : Byte) :
    (s.extract shape sel reg dlen).rreg = reg ∧ (s.extract shape sel reg dlen).rlen = dlen := by
  cases shape with
  | unknown => exact ⟨rfl, rfl⟩
  | float | triple | string =>
    simp only [State.extract]
    split <;> exact ⟨rfl, rfl⟩

/-- The selector is read for a telemetry frame only (41_decode R146). -/
theorem extract_sel {shape : Shape} (h : shape ≠ .triple) (s : State) (sel sel' : BitVec 2) (reg dlen : Byte) :
    s.extract shape sel reg dlen = s.extract shape sel' reg dlen := by
  cases shape with
  | triple => exact absurd rfl h
  | float | string | unknown => rfl

theorem shapeOf_unknown {reg : Byte} (h : reg ∉ [0xC1#8, 0xC2#8, 0xC3#8, 0xDE#8, 0xDF#8, 0xE0#8]) : shapeOf reg = .unknown := by
  simp only [List.mem_cons, List.not_mem_nil, or_false, not_or] at h
  obtain ⟨h1, h2, h3, h4, h5, h6⟩ := h
  simp only [shapeOf, h1, h2, h3, h4, h5, h6, if_false]

theorem shapeOf_ne_triple {reg : Byte} (h : reg ≠ 0xC3#8) : shapeOf reg ≠ .triple := by
  unfold shapeOf
  split_ifs <;> simp

theorem shapeOf_string {reg : Byte} (h : reg ∈ [0xDE#8, 0xDF#8, 0xE0#8]) : shapeOf reg = .string := by
  simp only [List.mem_cons, List.not_mem_nil, or_false] at h
  rcases h with rfl | rfl | rfl <;> rfl

/-- The registers of the echoed floats and their tags (41_decode R140, R141). -/
theorem shapeOf_echo {reg : Byte} {code : BitVec 3} (h : (reg, code) ∈ [(0xC1#8, 1#3), (0xC2#8, 2#3)]) :
    ∃ tag : Tag, shapeOf reg = .float tag ∧ tag.code = code := by
  simp only [List.mem_cons, Prod.mk.injEq, List.not_mem_nil, or_false] at h
  rcases h with ⟨rfl, rfl⟩ | ⟨rfl, rfl⟩ <;> exact ⟨_, rfl, rfl⟩

/-- The registers of the table and the payload that their shapes need (41_decode R138, R140). -/
theorem shapeOf_minPayload {reg : Byte} {n : Nat}
    (h : (reg, n) ∈ [(0xC1#8, 4), (0xC2#8, 4), (0xC3#8, 12), (0xDE#8, 0), (0xDF#8, 0), (0xE0#8, 0)]) :
    shapeOf reg ≠ .unknown ∧ (shapeOf reg).minPayload = n := by
  simp only [List.mem_cons, Prod.mk.injEq, List.not_mem_nil, or_false] at h
  rcases h with ⟨rfl, rfl⟩ | ⟨rfl, rfl⟩ | ⟨rfl, rfl⟩ | ⟨rfl, rfl⟩ | ⟨rfl, rfl⟩ | ⟨rfl, rfl⟩ <;> exact ⟨by decide, rfl⟩

/-- The tag of the selected telemetry value is 1 + SEL (41_decode R142). -/
theorem telemetryTag_eq_add {sel : BitVec 2} (hsel : sel ≠ 3#2) : (telemetryTag sel).code = 1#3 + sel.setWidth 3 := by
  revert sel
  decide

/-- The display-safe bytes are those from 0x20 to 0x7E (41_decode R144). -/
theorem printable_eq (b : Byte) : printable b = decide (0x20 ≤ b.toNat ∧ b.toNat ≤ 0x7E) := by
  simp [printable, BitVec.le_def]

theorem filter_printable (bs : List Byte) :
    bs.filter printable = bs.filter fun b => decide (0x20 ≤ b.toNat ∧ b.toNat ≤ 0x7E) :=
  List.filter_congr fun b _ => printable_eq b

/-! ### The rules of DECODE -/

/-- Settles O24. -/
theorem decodeReportsNotAResponse : Obligations.DecodeReportsNotAResponse :=
  fun _ sel _ hrow hgate => exec_decodeRow_outcome hrow (decodeResult_of_not_gate hgate sel)

/-- Settles O25. -/
theorem decodeExtractsTheEchoedFloat : Obligations.DecodeExtractsTheEchoedFloat := by
  intro i sel reg code s hrow hreg hlen h0 h1 h2 hmin hin
  subst h2
  obtain ⟨tag, hshape, rfl⟩ := shapeOf_echo hreg
  have hresult := decodeResult_of_gate (responseGate_iff.2 ⟨hlen, h0, h1⟩) hshape sel
  exact exec_decodeRow_outcome hrow (hresult.trans (extract_float ⟨hin, hmin⟩ sel _))

/-- Settles O26. -/
theorem decodeSelectsOneOfThreeTelemetryFloats : Obligations.DecodeSelectsOneOfThreeTelemetryFloats := by
  intro i sel s hrow hlen h0 h1 h2 hmin hin o
  have hshape : shapeOf (s.rx 2) = .triple := by rw [h2]; rfl
  have hresult := decodeResult_of_gate (responseGate_iff.2 ⟨hlen, h0, h1⟩) hshape sel
  rw [← telemetryTag_eq_add (exec_decodeRow hrow).1, ← h2]
  exact exec_decodeRow_outcome hrow (hresult.trans (extract_triple ⟨hin, hmin⟩ sel _))

/-- Settles O27. -/
theorem decodeKeepsThePrintableBytesOfAString : Obligations.DecodeKeepsThePrintableBytesOfAString := by
  intro i sel reg s hrow hreg hlen h0 h1 h2 hin
  subst h2
  have hresult := decodeResult_of_gate (responseGate_iff.2 ⟨hlen, h0, h1⟩) (shapeOf_string hreg) sel
  rw [← filter_printable]
  exact exec_decodeRow_outcome hrow (hresult.trans (extract_string ⟨hin, Nat.zero_le _⟩ sel _))

/-- Settles O28. -/
theorem decodeLeavesOtherRegistersUnknown : Obligations.DecodeLeavesOtherRegistersUnknown := by
  intro i sel s hrow hlen h0 h1 h2
  have hresult := decodeResult_of_gate (responseGate_iff.2 ⟨hlen, h0, h1⟩) (shapeOf_unknown h2) sel
  exact exec_decodeRow_outcome hrow (hresult.trans (extract_unknown s sel _ _))

/-- A payload that fits its shape is extracted, so the result has a tag (41_decode R137). -/
theorem extract_of_payloadFits {s : State} {reg : Byte} (h : s.payloadFits (shapeOf reg)) (sel : BitVec 2) :
    (s.extract (shapeOf reg) sel reg (s.rx 3)).err = .ok ∧ (s.extract (shapeOf reg) sel reg (s.rx 3)).tag.code ≠ 0#3 := by
  cases hshape : shapeOf reg with
  | unknown => exact ⟨rfl, by simp [extract_unknown, noValue, Tag.code]⟩
  | float tag =>
    rw [extract_float (hshape ▸ h)]
    refine ⟨rfl, ?_⟩
    rcases shapeOf_float hshape with rfl | rfl <;> simp [noValue, Tag.code]
  | triple =>
    rw [extract_triple (hshape ▸ h)]
    exact ⟨rfl, fun h0 => absurd (telemetryTag_code sel).1 (by rw [show (telemetryTag sel).code = 0#3 from h0]; decide)⟩
  | string =>
    rw [extract_string (hshape ▸ h)]
    exact ⟨rfl, by simp [noValue, Tag.code]⟩

/-- Settles O29: the bounds tests compare the payload with RX_LEN, CHK() the checksum byte behind it. -/
theorem decodeReportsTruncatedFrames : Obligations.DecodeReportsTruncatedFrames := by
  intro i sel reg fixedLen s hrow hreg hlen h0 h1 h2
  subst h2
  obtain ⟨hknown, rfl⟩ := shapeOf_minPayload hreg
  have hresult := decodeResult_of_gate (responseGate_iff.2 ⟨hlen, h0, h1⟩) rfl sel
  constructor
  · intro hshort
    have hfits : ¬ s.payloadFits (shapeOf (s.rx 2)) := by unfold State.payloadFits; omega
    exact exec_decodeRow_outcome hrow (hresult.trans (extract_truncated hknown hfits sel _))
  · intro hmin hin
    obtain ⟨hsel, hexec⟩ := exec_decodeRow hrow
    obtain ⟨herr, -, -, -, htag, -⟩ := decodeCommand_fields hsel s
    obtain ⟨hok, hne⟩ := extract_of_payloadFits ⟨hin.ge, hmin⟩ sel
    obtain ⟨-, -, -, ⟨habsent, -⟩, -⟩ := decodeCommand_outcome hsel (s := s) rfl
    obtain ⟨-, hpresent, -⟩ := habsent (.inr (by omega))
    rw [hresult] at herr htag
    exact ⟨_, hexec s, by rw [herr, hok]; rfl, hpresent, by rwa [htag]⟩

end Sys2Proof.Machine
end

section
/-!
SUPPORT. What DECODE and VERIFY depend on (41_decode R131, R146, R147, R149, R150, 42_verify R171, R180): their outputs are functions of
CHK() and of the decode result, and those of the received frame.
-/

namespace Sys2Proof.Machine

/-- Settles O30: both report what CHK() answers. -/
theorem decodeAndVerifyReportTheSameChecksum : Obligations.DecodeAndVerifyReportTheSameChecksum := by
  intro i sel k s hrow
  obtain ⟨hsel, hexec⟩ := exec_decodeRow hrow
  obtain ⟨-, -, hok, hpresent, -⟩ := decodeCommand_fields hsel s
  refine ⟨_, verifyCommand k s, hexec s, rfl, decodeCommand_csum hsel s, hok.trans ?_, hpresent.trans ?_⟩
  · exact (State.report_csumOk _ _ _ _ _).symm
  · exact (State.report_csumPresent _ _ _ _ _).symm

/-! ### The selector -/

theorem decodeResult_sel {s : State} (h : s.rx 2 ≠ 0xC3#8) (sel sel' : BitVec 2) :
    s.decodeResult sel = s.decodeResult sel' := by
  unfold State.decodeResult
  rw [extract_sel (shapeOf_ne_triple h) s sel sel']

theorem decodeCommand_sel {s : State} (h : s.rx 2 ≠ 0xC3#8) {sel sel' : BitVec 2} (hsel : sel ≠ 3#2) (hsel' : sel' ≠ 3#2) :
    decodeCommand sel s = { decodeCommand sel' s with ctrl := ctrlWord 2#3 sel } := by
  rw [decodeCommand_eq hsel, decodeCommand_eq hsel', decodeResult_sel h sel sel']
  rfl

/-- Settles O32. -/
theorem selectorMattersOnlyForTelemetry : Obligations.SelectorMattersOnlyForTelemetry := fun _ h =>
  ⟨_, rfl, congrArg Host.Outcome.next (decodeCommand_sel h (by decide) (by decide)),
    congrArg Host.Outcome.next (decodeCommand_sel h (by decide) (by decide))⟩

/-! ### The bytes of the frame -/

/-- Equal decode results display the same bytes. -/
theorem decodeCommand_disp_congr {s u : State} {sel : BitVec 2} (hsel : sel ≠ 3#2)
    (hresult : u.decodeResult sel = s.decodeResult sel) {j : Nat} (hj : j < 256) :
    (decodeCommand sel u).disp j = (decodeCommand sel s).disp j := by
  rw [decodeCommand_displays hsel u j hj, decodeCommand_displays hsel s j hj, hresult]

/-- Settles O33: CHK() and the decode result read the received frame only. -/
theorem decodeAndVerifyReadOnlyTheFrame : Obligations.DecodeAndVerifyReadOnlyTheFrame := by
  intro i sel k s u hrow hlen hrx
  obtain ⟨hsel, hexec⟩ := exec_decodeRow hrow
  have hsame : sameReceivedFrame s u := ⟨hlen, hrx⟩
  have hcheck := check_congr hsame
  have hresult := decodeResult_congr hsame hsel
  constructor
  · refine ⟨_, _, hexec s, hexec u, ?_⟩
    have hdisp := fun j (hj : j < 256) => decodeCommand_disp_congr hsel hresult hj
    rw [decodeCommand_eq hsel u, decodeCommand_eq hsel s, hcheck, hresult] at hdisp ⊢
    exact ⟨rfl, rfl, rfl, rfl, rfl, rfl, hdisp⟩
  · refine ⟨verifyCommand k s, verifyCommand k u, rfl, rfl, ?_⟩
    unfold verifyCommand
    rw [hcheck]
    exact ⟨rfl, rfl, rfl⟩

/-! ### The checksum byte -/

/-- `u` holds the same header and payload as `s`, with the same RX_LEN; the checksum byte behind the payload is free. -/
def samePayload (s u : State) : Prop :=
  u.rxLen = s.rxLen ∧ ∀ j, j < 4 + (s.rx 3).toNat → u.rx j = s.rx j

/-- The checksum byte is read for the comparison alone (42_verify R171). -/
theorem check_congr_payload {s u : State} (h : samePayload s u) :
    u.check.present = s.check.present ∧ u.check.computed = s.check.computed := by
  obtain ⟨hlen, hrx⟩ := h
  have h2 : u.rx 2 = s.rx 2 := hrx 2 (by omega)
  have h3 : u.rx 3 = s.rx 3 := hrx 3 (by omega)
  by_cases habsent : s.rxLen.toNat < 4 ∨ s.rxLen.toNat < 5 + (s.rx 3).toNat
  · rw [check_of_absent habsent, check_of_absent (by rwa [hlen, h3])]
    exact ⟨rfl, rfl⟩
  · have hbytes : u.rxBytes 4 (s.rx 3).toNat = s.rxBytes 4 (s.rx 3).toNat := rxBytes_congr fun j _ hj => hrx j hj
    rw [check_of_present (s := s) (by omega) (by omega), check_of_present (s := u) (by rw [hlen]; omega) (by rw [hlen, h3]; omega),
      h2, h3, hbytes]
    exact ⟨rfl, rfl⟩

/-- The decode result does not depend on the checksum byte (41_decode R150). -/
theorem decodeResult_congr_payload {s u : State} (h : samePayload s u) {sel : BitVec 2} (hsel : sel ≠ 3#2) :
    u.decodeResult sel = s.decodeResult sel := by
  obtain ⟨hlen, hrx⟩ := h
  have hgate : u.responseGate = s.responseGate := by
    rw [Bool.eq_iff_iff, responseGate_iff, responseGate_iff, hlen, hrx 0 (by omega), hrx 1 (by omega)]
  unfold State.decodeResult
  rw [hgate, hrx 2 (by omega), hrx 3 (by omega), extract_congr hlen _ hsel _ _ fun j _ hj => hrx j hj]

theorem samePayload_writeChecksum (s : State) (b : Byte) : samePayload s (s.writeBytes (0x804 + (s.rx 3).toNat) [b]) := by
  refine ⟨rfl, fun j hj => ?_⟩
  rw [State.rx, State.readByte_writeBytes, if_neg (by simp only [rxBase]; omega)]
  rfl

/-- Settles O31. -/
theorem badChecksumChangesOnlyTheFlag : Obligations.BadChecksumChangesOnlyTheFlag := by
  intro i sel s b hrow u
  obtain ⟨hsel, hexec⟩ := exec_decodeRow hrow
  have hsame : samePayload s u := samePayload_writeChecksum s b
  have hresult := decodeResult_congr_payload hsame hsel
  obtain ⟨hpresent, hcomputed⟩ := check_congr_payload hsame
  obtain ⟨herr, hop, -, hpresent_s, -⟩ := decodeCommand_fields hsel s
  obtain ⟨herr_u, hop_u, -, hpresent_u, -⟩ := decodeCommand_fields hsel u
  have hcalc : ∀ s : State, (decodeCommand sel s).calcByte = s.check.computed := fun s => by
    rw [State.calcByte, decodeCommand_csum hsel, csumWord_calc]
  refine ⟨_, _, hexec s, hexec u, ?_, by rw [herr, herr_u, hresult], by rw [hop, hop_u],
    by rw [hpresent_s, hpresent_u, hpresent], by rw [hcalc, hcalc, hcomputed],
    fun k hk => decodeCommand_disp_congr hsel hresult hk⟩
  rw [decodeCommand_eq hsel u, decodeCommand_eq hsel s, hresult]
  rfl

end Sys2Proof.Machine
end

section
/-!
SUPPORT. A frame in RX_BUF: what DECODE reads of it is what was received (20_memory R69, 41_decode R133-R146), whether a response row
received it (60_exceptions R216) or the host copied an encoded frame there (41_decode R160).
-/

namespace Sys2Proof.Machine

/-! ### Received bytes -/

/-- RX_BUF holds these bytes from RX[0], and RX_LEN is their number (20_memory R69). -/
def received (bytes : List Byte) (u : State) : Prop :=
  u.rxLen.toNat = bytes.length ∧ u.rxBytes 0 bytes.length = bytes

theorem received_of_written {s u : State} {bytes : List Byte} (hcap : bytes.length ≤ 260)
    (hlen : u.rxLen = BitVec.ofNat 32 bytes.length) (hbytes : ∀ b, u.readByte b = (s.writeBytes 0x800 bytes).readByte b) :
    received bytes u := by
  refine ⟨?_, (rxBytes_of_written hbytes).1⟩
  rw [hlen, BitVec.toNat_ofNat]
  omega

theorem received_rx {bytes : List Byte} {u : State} (h : received bytes u) {j : Nat} (hj : j < bytes.length) :
    u.rx j = bytes.getD j 0#8 := by
  obtain ⟨-, hbytes⟩ := h
  rw [← hbytes]
  simp [State.rxBytes, hj]

/-- The header of a received frame (30_encoding R70). -/
theorem received_header {f0 f1 reg len : Byte} {body : List Byte} {u : State} (h : received ([f0, f1, reg, len] ++ body) u) :
    u.rxLen.toNat = body.length + 4 ∧ u.rx 0 = f0 ∧ u.rx 1 = f1 ∧ u.rx 2 = reg ∧ u.rx 3 = len :=
  ⟨h.1, received_rx h (Nat.succ_pos _), received_rx h (by simp), received_rx h (by simp), received_rx h (by simp)⟩

/-- RX[4 + j] is byte j behind the header. -/
theorem received_body {f0 f1 reg len : Byte} {body : List Byte} {u : State} (h : received ([f0, f1, reg, len] ++ body) u)
    {j : Nat} (hj : j < body.length) : u.rx (4 + j) = body.getD j 0#8 := by
  rw [received_rx h (by rw [List.length_append]; exact Nat.add_lt_add_left hj 4), Nat.add_comm]
  rfl

theorem received_payload {f0 f1 reg len : Byte} {body : List Byte} {u : State} (h : received ([f0, f1, reg, len] ++ body) u)
    {n : Nat} (hn : n ≤ body.length) : u.rxBytes 4 n = body.take n := by
  refine List.ext_getElem (by simp [State.rxBytes, hn]) fun j hj _ => ?_
  have hj : j < body.length := by simp only [State.rxBytes, List.length_map, List.length_range] at hj; omega
  simp [State.rxBytes, received_body h hj, hj]

/-- The float at payload offset `o` (30_encoding R78). -/
def payloadFloat (payload : List Byte) (o : Nat) : Word :=
  le32 (payload.getD o 0#8) (payload.getD (o + 1) 0#8) (payload.getD (o + 2) 0#8) (payload.getD (o + 3) 0#8)

theorem received_float {f0 f1 reg len : Byte} {body : List Byte} {u : State} (h : received ([f0, f1, reg, len] ++ body) u)
    {o : Nat} (ho : o + 4 ≤ body.length) : u.rxFloat (4 + o) = payloadFloat body o := by
  simp only [State.rxFloat, payloadFloat, Nat.add_assoc 4 o]
  rw [received_body h (by omega), received_body h (by omega), received_body h (by omega), received_body h (by omega)]

/-- Bytes behind a payload do not reach its floats. -/
theorem payloadFloat_append {payload : List Byte} {o : Nat} (ho : o + 4 ≤ payload.length) (rest : List Byte) :
    payloadFloat (payload ++ rest) o = payloadFloat payload o := by
  unfold payloadFloat
  rw [List.getD_append _ _ _ _ (by omega), List.getD_append _ _ _ _ (by omega), List.getD_append _ _ _ _ (by omega),
    List.getD_append _ _ _ _ (by omega)]

/-! ### What a received frame decodes to -/

/-- A frame that is a response and longer than 6 bytes is extracted by its register's shape (41_decode R133, R135). -/
theorem received_decodeResult {reg len : Byte} {body : List Byte} {u : State}
    (h : received ([0xF0#8, 0xA1#8, reg, len] ++ body) u) (hbody : 3 ≤ body.length) (sel : BitVec 2) :
    u.decodeResult sel = u.extract (shapeOf reg) sel reg len := by
  obtain ⟨hlen, h0, h1, h2, h3⟩ := received_header h
  rw [decodeResult_of_gate (responseGate_iff.2 ⟨by omega, h0, h1⟩) rfl, h2, h3]

/-- Any other buffer is no response (41_decode R134). -/
theorem received_notAResponse {f0 f1 reg len : Byte} {body : List Byte} {u : State}
    (h : received ([f0, f1, reg, len] ++ body) u) (hgate : f0 ≠ 0xF0#8 ∨ f1 ≠ 0xA1#8 ∨ body.length ≤ 2) (sel : BitVec 2) :
    u.decodeResult sel = noValue .notAResponse .none 0#8 0#8 := by
  obtain ⟨hlen, h0, h1, -⟩ := received_header h
  refine decodeResult_of_not_gate ?_ sel
  rw [hlen, h0, h1]
  rintro ⟨hlong, hf0, hf1⟩
  rcases hgate with hgate | hgate | hgate
  · exact hgate hf0
  · exact hgate hf1
  · omega

theorem received_payloadFits {f0 f1 reg len : Byte} {body : List Byte} {u : State}
    (h : received ([f0, f1, reg, len] ++ body) u) (shape : Shape) :
    u.payloadFits shape ↔ len.toNat ≤ body.length ∧ shape.minPayload ≤ len.toNat := by
  obtain ⟨hlen, -, -, -, h3⟩ := received_header h
  rw [State.payloadFits, hlen, h3]
  omega

theorem received_extract_truncated {f0 f1 reg len : Byte} {body : List Byte} {u : State}
    (h : received ([f0, f1, reg, len] ++ body) u) {shape : Shape} (hknown : shape ≠ .unknown)
    (hshort : body.length < len.toNat ∨ len.toNat < shape.minPayload) (sel : BitVec 2) :
    u.extract shape sel reg len = noValue .truncated .none len reg := by
  obtain ⟨-, -, -, -, h3⟩ := received_header h
  have hfits : ¬ u.payloadFits shape := by rw [received_payloadFits h]; omega
  rw [← h3, extract_truncated hknown hfits]

theorem received_extract_float {f0 f1 reg len : Byte} {body : List Byte} {u : State}
    (h : received ([f0, f1, reg, len] ++ body) u) (hin : len.toNat ≤ body.length) (hmin : 4 ≤ len.toNat) (tag : Tag)
    (sel : BitVec 2) :
    u.extract (.float tag) sel reg len = { noValue .ok tag len reg with value := payloadFloat body 0 } := by
  obtain ⟨-, -, -, -, h3⟩ := received_header h
  rw [← h3, extract_float ((received_payloadFits h _).2 ⟨hin, hmin⟩), ← received_float h (by omega)]

/-- A legal selector is 0, 1 or 2 (30_encoding R85). -/
theorem toNat_lt_of_legal {sel : BitVec 2} (hsel : sel ≠ 3#2) : sel.toNat < 3 := by
  revert sel
  decide

theorem received_extract_triple {f0 f1 reg len : Byte} {body : List Byte} {u : State}
    (h : received ([f0, f1, reg, len] ++ body) u) (hin : len.toNat ≤ body.length) (hmin : 12 ≤ len.toNat) {sel : BitVec 2}
    (hsel : sel ≠ 3#2) :
    u.extract .triple sel reg len =
      { noValue .ok (telemetryTag sel) len reg with value := payloadFloat body (4 * sel.toNat) } := by
  obtain ⟨-, -, -, -, h3⟩ := received_header h
  have hlt := toNat_lt_of_legal hsel
  rw [← h3, extract_triple ((received_payloadFits h _).2 ⟨hin, hmin⟩), ← received_float h (by omega)]

theorem received_extract_string {f0 f1 reg len : Byte} {body : List Byte} {u : State}
    (h : received ([f0, f1, reg, len] ++ body) u) (hin : len.toNat ≤ body.length) (sel : BitVec 2) :
    u.extract .string sel reg len =
      { noValue .ok .byteString len reg with display := (body.take len.toNat).filter printable } := by
  obtain ⟨-, -, -, -, h3⟩ := received_header h
  rw [← received_payload h hin, ← h3]
  exact extract_string ((received_payloadFits h _).2 ⟨hin, Nat.zero_le _⟩) sel reg

/-! ### DECODE leaves the received frame -/

theorem decodeCommand_rx (sel : BitVec 2) (s : State) {j : Nat} (hj : j < 0x400) : (decodeCommand sel s).rx j = s.rx j :=
  readByte_decodeCommand sel s (.inl (by simp only [rxBase]; omega))

theorem decodeCommand_received {bytes : List Byte} {u : State} (h : received bytes u) (hcap : bytes.length ≤ 260)
    (sel : BitVec 2) : received bytes (decodeCommand sel u) := by
  obtain ⟨hlen, hbytes⟩ := h
  refine ⟨by rw [decodeCommand_frame]; exact hlen, ?_⟩
  rw [rxBytes_congr fun j _ hj => decodeCommand_rx sel u (by omega), hbytes]

/-- The report is about the frame that RX_BUF still holds. -/
theorem decodeCommand_checksumReported {sel : BitVec 2} (hsel : sel ≠ 3#2) (u : State) :
    checksumReported (decodeCommand sel u) (decodeCommand sel u) := by
  obtain ⟨-, -, hok, hpresent, -⟩ := decodeCommand_fields hsel u
  have hcsum := decodeCommand_csum hsel u
  rw [← check_congr (decodeCommand_sameReceivedFrame sel u)] at hok hpresent hcsum
  exact checksumReported_of_check hok hpresent hcsum

end Sys2Proof.Machine
end

section
/-!
SUPPORT. The response rows (30_encoding R91, 60_exceptions R216): each receives its frame and decodes it with the selector in CTRL
(log 7), so its outcome is the result of DECODE on the received frame; and the restricted round trip of 41_decode R160.
-/

namespace Sys2Proof.Machine

/-! ### A response row completes in its DECODE -/

/-- The command word of a response row's DECODE carries the selector it was given (30_encoding R83). -/
theorem exec_decodeWord (sel : BitVec 2) (s : State) :
    exec (decodeCommandWord (commandWord 2#3 sel)) s = .next (decodeCommand sel s) := by
  obtain rfl | rfl | rfl | rfl : sel = 0#2 ∨ sel = 1#2 ∨ sel = 2#2 ∨ sel = 3#2 := by revert sel; decide
  all_goals rfl

/-- `s` after the RECV of `bytes` (30_encoding R90). -/
def State.afterReceive (s : State) (bytes : List Byte) : State :=
  { s.writeBytes 0x800 bytes with rxLen := BitVec.ofNat 32 bytes.length, response := .done }

theorem afterReceive_received (s : State) {bytes : List Byte} (hcap : bytes.length ≤ 260) :
    received bytes (s.afterReceive bytes) := received_of_written hcap rfl fun _ => rfl

/-- A response row ends in the state of DECODE on what it received (60_exceptions R216, 10_state R43). -/
theorem receiveAndDecode_completesIn {i : Instr} {f0 f1 reg len : Byte} {body : List Byte} {s : State}
    (hexec : exec i s = receiveAndDecode ([f0, f1, reg, len] ++ body) s) (hbody : body.length ≤ 256) :
    completesIn (body.length + 5) i s (decodeCommand s.ctrlSel (s.afterReceive ([f0, f1, reg, len] ++ body))) := by
  have hdecode := exec_decodeWord s.ctrlSel (s.afterReceive ([f0, f1, reg, len] ++ body))
  rw [← le32_wordByte (commandWord 2#3 s.ctrlSel)] at hdecode
  obtain ⟨t, ht, hqueue, hsteps⟩ := receiveAndDecode_completes (bytes := [f0, f1, reg, len] ++ body) (by simp)
    (Nat.add_le_add_right hbody 4) hdecode
  exact ⟨t, hexec.trans ht, hqueue, hsteps⟩

/-- The outcome of a response row under a legal selector is the result of DECODE on its frame (41_decode R130). -/
theorem receiveAndDecode_outcome {i : Instr} {f0 f1 reg len : Byte} {body : List Byte} {s : State}
    (hexec : exec i s = receiveAndDecode ([f0, f1, reg, len] ++ body) s) (hbody : body.length ≤ 256) (hsel : s.ctrlSel ≠ 3#2)
    {r : DecodeResult} (hr : ∀ u, received ([f0, f1, reg, len] ++ body) u → u.decodeResult s.ctrlSel = r) :
    ∃ t, completesIn (body.length + 5) i s t ∧
      responseOutcome ([f0, f1, reg, len] ++ body) s.ctrlSel r.err.code (infoWord r.tag.code r.rlen r.rreg) r.value r.display
        s t := by
  have hcap : ([f0, f1, reg, len] ++ body).length ≤ 260 := Nat.add_le_add_right hbody 4
  have hu := afterReceive_received s hcap
  obtain ⟨hlen, hrx⟩ := decodeCommand_received hu hcap s.ctrlSel
  obtain ⟨hctrl, herr, hop, -, hinfo, hvalue, hdisplen, hshown, -⟩ := decodeCommand_outcome hsel (hr _ hu)
  refine ⟨_, receiveAndDecode_completesIn hexec hbody, hrx, hlen, hctrl, herr, hop, decodeCommand_checksumReported hsel _,
    hinfo, hvalue, hdisplen, hshown, ?_, fun b hb => ?_⟩
  · rw [decodeCommand_frame]
    rfl
  · rw [readByte_decodeCommand _ _ (by omega)]
    exact (rxBytes_of_written (fun _ => rfl)).2 b (by omega)

/-! ### The response rows and their registers -/

/-- The seven response rows receive the frame that their operands name (30_encoding R91). -/
theorem exec_responseRow {i : Instr} {reg len : Byte} {body : List Byte}
    (h : (i, reg) ∈ [(.respSetv len body, 0xC1#8), (.respSeti len body, 0xC2#8), (.respTelem len body, 0xC3#8),
      (.respModel len body, 0xDE#8), (.respHwver len body, 0xDF#8), (.respFwver len body, 0xE0#8),
      (.respOther reg len body, reg)]) (s : State) :
    exec i s = receiveAndDecode ([0xF0#8, 0xA1#8, reg, len] ++ body) s := by
  simp only [List.mem_cons, Prod.mk.injEq, List.not_mem_nil, or_false] at h
  rcases h with ⟨rfl, rfl⟩ | ⟨rfl, rfl⟩ | ⟨rfl, rfl⟩ | ⟨rfl, rfl⟩ | ⟨rfl, rfl⟩ | ⟨rfl, rfl⟩ | ⟨rfl, -⟩ <;> rfl

/-- The six rows of the register table are response rows, with the payload that their shapes need (41_decode R138, R140). -/
theorem exec_tableRow {i : Instr} {reg len : Byte} {n : Nat} {body : List Byte}
    (h : (i, reg, n) ∈ [(.respSetv len body, 0xC1#8, 4), (.respSeti len body, 0xC2#8, 4),
      (.respTelem len body, 0xC3#8, 12), (.respModel len body, 0xDE#8, 0), (.respHwver len body, 0xDF#8, 0),
      (.respFwver len body, 0xE0#8, 0)]) (s : State) :
    exec i s = receiveAndDecode ([0xF0#8, 0xA1#8, reg, len] ++ body) s ∧ shapeOf reg ≠ .unknown ∧
      (shapeOf reg).minPayload = n := by
  simp only [List.mem_cons, Prod.mk.injEq, List.not_mem_nil, or_false] at h
  rcases h with ⟨rfl, rfl, rfl⟩ | ⟨rfl, rfl, rfl⟩ | ⟨rfl, rfl, rfl⟩ | ⟨rfl, rfl, rfl⟩ | ⟨rfl, rfl, rfl⟩ | ⟨rfl, rfl, rfl⟩ <;>
    exact ⟨rfl, by decide, rfl⟩

/-- An echo row of a register with a float shape (41_decode R141). -/
theorem echoRow_outcome {i : Instr} {reg len b0 b1 b2 b3 : Byte} {tail : List Byte} {s : State} {tag : Tag}
    (hexec : exec i s = receiveAndDecode ([0xF0#8, 0xA1#8, reg, len] ++ ([b0, b1, b2, b3] ++ tail)) s)
    (hshape : shapeOf reg = .float tag) (hmin : 4 ≤ len.toNat) (hin : len.toNat ≤ tail.length + 4) (htail : tail.length ≤ 252)
    (hsel : s.ctrlSel ≠ 3#2) :
    ∃ t, completesIn (tail.length + 9) i s t ∧
      responseOutcome ([0xF0#8, 0xA1#8, reg, len, b0, b1, b2, b3] ++ tail) s.ctrlSel 0#4 (infoWord tag.code len reg)
        (le32 b0 b1 b2 b3) [] s t := by
  refine receiveAndDecode_outcome hexec (Nat.add_le_add_right htail 4) hsel
    (r := { noValue .ok tag len reg with value := le32 b0 b1 b2 b3 }) fun u hu => ?_
  rw [received_decodeResult hu (by simp), hshape, received_extract_float hu hin hmin]
  rfl

/-- Settles O44. -/
theorem echoResponsesDecodeToTheirFloat : Obligations.EchoResponsesDecodeToTheirFloat :=
  fun _ _ _ _ _ _ _ hmin hin htail hsel =>
    ⟨echoRow_outcome (tag := .voltage) rfl rfl hmin hin htail hsel,
      echoRow_outcome (tag := .current) rfl rfl hmin hin htail hsel⟩

/-- The three floats of a telemetry payload, by selector (41_decode R142). -/
theorem payloadFloat_telemetry {sel : BitVec 2} (hsel : sel ≠ 3#2) (v c p : Word) (tail : List Byte) :
    payloadFloat (wordBytes v ++ wordBytes c ++ wordBytes p ++ tail) (4 * sel.toNat) =
      if sel = 0#2 then v else if sel = 1#2 then c else p := by
  obtain rfl | rfl | rfl : sel = 0#2 ∨ sel = 1#2 ∨ sel = 2#2 := by revert sel; decide
  · exact le32_wordByte v
  · exact le32_wordByte c
  · exact le32_wordByte p

/-- Settles O45. -/
theorem telemetryResponseDecodesToTheSelectedFloat : Obligations.TelemetryResponseDecodesToTheSelectedFloat := by
  intro len v c p tail s hmin hin htail hsel body
  have hlen : body.length = tail.length + 12 := by simp [body, wordBytes]
  rw [← telemetryTag_eq_add hsel, ← payloadFloat_telemetry hsel v c p tail,
    show tail.length + 17 = body.length + 5 by omega]
  refine receiveAndDecode_outcome rfl (by omega) hsel
    (r := { noValue .ok (telemetryTag s.ctrlSel) len 0xC3#8 with value := payloadFloat body (4 * s.ctrlSel.toNat) })
    fun u hu => ?_
  rw [received_decodeResult hu (by omega)]
  exact received_extract_triple hu (by omega) hmin hsel

/-- A row of an identity register (41_decode R143, R144). -/
theorem identityRow_outcome {i : Instr} {reg len : Byte} {body : List Byte} {s : State}
    (hexec : exec i s = receiveAndDecode ([0xF0#8, 0xA1#8, reg, len] ++ body) s) (hshape : shapeOf reg = .string)
    (hbody : 3 ≤ body.length) (hfits : body.length ≤ 256) (hin : len.toNat ≤ body.length) (hsel : s.ctrlSel ≠ 3#2) :
    ∃ t, completesIn (body.length + 5) i s t ∧
      responseOutcome ([0xF0#8, 0xA1#8, reg, len] ++ body) s.ctrlSel 0#4 (infoWord 4#3 len reg) 0#32
        ((body.take len.toNat).filter fun b => decide (0x20 ≤ b.toNat ∧ b.toNat ≤ 0x7E)) s t := by
  rw [← filter_printable]
  refine receiveAndDecode_outcome hexec hfits hsel
    (r := { noValue .ok .byteString len reg with display := (body.take len.toNat).filter printable }) fun u hu => ?_
  rw [received_decodeResult hu hbody, hshape, received_extract_string hu hin]

/-- Settles O46. -/
theorem identityResponsesDecodeToStrings : Obligations.IdentityResponsesDecodeToStrings :=
  fun _ _ _ hbody hfits hin hsel =>
    ⟨identityRow_outcome rfl rfl hbody hfits hin hsel, identityRow_outcome rfl rfl hbody hfits hin hsel,
      identityRow_outcome rfl rfl hbody hfits hin hsel⟩

/-- Settles O47. -/
theorem otherResponsesDecodeToUnknown : Obligations.OtherResponsesDecodeToUnknown := by
  intro reg len body s hbody hfits hreg hsel
  refine receiveAndDecode_outcome rfl hfits hsel (r := noValue .ok .unknown len reg) fun u hu => ?_
  rw [received_decodeResult hu hbody, shapeOf_unknown hreg, extract_unknown]

/-- Settles O48: six bytes fail the gate, and a payload that does not fit its shape is not extracted. -/
theorem shortOrTruncatedResponsesGiveNoValue : Obligations.ShortOrTruncatedResponsesGiveNoValue := by
  constructor
  · intro i reg len body s hsel hrow hshort
    exact receiveAndDecode_outcome (exec_responseRow hrow s) (by omega) hsel
      fun u hu => received_notAResponse hu (.inr (.inr hshort)) s.ctrlSel
  · intro i reg len fixedLen body s hsel hrow hbody hfits hshort
    obtain ⟨hexec, hknown, rfl⟩ := exec_tableRow hrow s
    refine receiveAndDecode_outcome hexec hfits hsel (r := noValue .truncated .none len reg) fun u hu => ?_
    rw [received_decodeResult hu hbody, received_extract_truncated hu hknown hshort]

/-- Settles O49: DECODE with the reserved selector writes CTRL and STATUS alone, on top of what was received. -/
theorem responsesUnderTheReservedSelectorAreIllegal : Obligations.ResponsesUnderTheReservedSelectorAreIllegal := by
  intro i reg len body s hsel hfits hrow
  have hcompletes := receiveAndDecode_completesIn (exec_responseRow hrow s) hfits
  rw [hsel] at hcompletes
  obtain ⟨hrx, hsame⟩ := rxBytes_of_written (s := s) (bs := [0xF0#8, 0xA1#8, reg, len] ++ body)
    (t := decodeCommand 3#2 (s.afterReceive ([0xF0#8, 0xA1#8, reg, len] ++ body))) fun _ => rfl
  exact ⟨_, hcompletes, hrx, rfl, hsame⟩

/-! ### The round trip -/

/-- The bytes that ENCODE leaves in TX_BUF, copied to RX_BUF, are a received frame (40_encode R100, 41_decode R160). -/
theorem encodeCommand_copied {k : BitVec 2} {s u : State} (hn : u.rxLen = BitVec.ofNat 32 (s.encPlen.toNat + 5))
    (hbytes : ∀ b, u.readByte b =
      ((encodeCommand k s).writeBytes 0x800 ((encodeCommand k s).txBytes 0 (s.encPlen.toNat + 5))).readByte b) :
    received ([s.encDir, s.encCmd, s.encReg, s.encPlen] ++
      (s.encPayload ++ [frameChecksum s.encReg s.encPlen s.encPayload])) u := by
  have hframe : (encodeCommand k s).txBytes 0 (s.encPlen.toNat + 5) = [s.encDir, s.encCmd, s.encReg, s.encPlen] ++
      (s.encPayload ++ [frameChecksum s.encReg s.encPlen s.encPayload]) := by
    have hlen : BitVec.ofNat 8 s.encPlen.toNat = s.encPlen := by simp
    rw [encodeCommand_txBytes, frameBytes, txBytes_length, hlen, List.append_assoc]
    rfl
  have hcount := congrArg List.length hframe
  have hplen : s.encPlen.toNat < 256 := s.encPlen.isLt
  rw [txBytes_length] at hcount
  rw [hframe] at hbytes
  exact received_of_written (by omega) (by rw [← hcount]; exact hn) hbytes

/-- CHK() matches on a frame that ends in its checksum byte (42_verify R171). -/
theorem received_check_ok {f0 f1 reg len : Byte} {payload : List Byte} {u : State} (hlen : payload.length = len.toNat)
    (h : received ([f0, f1, reg, len] ++ (payload ++ [frameChecksum reg len payload])) u) :
    u.check.ok = true ∧ u.check.present = true := by
  obtain ⟨hcount, -, -, h2, h3⟩ := received_header h
  have hbody : (payload ++ [frameChecksum reg len payload]).length = len.toNat + 1 := by simp [hlen]
  have hpayload : u.rxBytes 4 len.toNat = payload := by
    rw [received_payload h (by omega), ← hlen, List.take_left]
  have hsum : u.rx (4 + len.toNat) = frameChecksum reg len payload := by
    rw [received_body h (by omega), ← hlen]
    simp
  rw [check_of_present (by omega) (by rw [h3]; omega), h2, h3, hpayload, hsum]
  exact ⟨decide_eq_true rfl, rfl⟩

theorem shapeOf_float_of_mem {reg : Byte} (h : reg ∈ [0xC1#8, 0xC2#8]) : ∃ tag, shapeOf reg = .float tag := by
  simp only [List.mem_cons, List.not_mem_nil, or_false] at h
  rcases h with rfl | rfl <;> exact ⟨_, rfl⟩

/-- Settles O34: the copied frame is received whole, and its payload is as long as it declares. -/
theorem encodeThenDecodeRoundTrip : Obligations.EncodeThenDecodeRoundTrip := by
  intro i sel k s hrow n reg payload float
  obtain ⟨hsel, hexec⟩ := exec_decodeRow hrow
  refine ⟨encodeCommand k s, rfl, ?_⟩
  intro u
  have hu : received ([s.encDir, s.encCmd, reg, s.encPlen] ++ (payload ++ [frameChecksum reg s.encPlen payload])) u :=
    encodeCommand_copied rfl fun _ => rfl
  clear_value u
  have hlen : payload.length = n := txBytes_length s 4 n
  have hbody : (payload ++ [frameChecksum reg s.encPlen payload]).length = n + 1 := by simp [hlen]
  obtain ⟨herr, -, hok, hpresent, htag, hrlen, hrreg⟩ := decodeCommand_fields hsel u
  have hvalue := decodeCommand_resVal hsel u
  obtain ⟨hmatch, hinside⟩ := received_check_ok hlen hu
  refine ⟨decodeCommand sel u, hexec u, ?_, ?_⟩
  · rintro ⟨hdir, hcmd, hn⟩
    rw [hdir, hcmd] at hu
    rw [received_decodeResult hu (by omega)] at herr htag hrlen hrreg hvalue
    obtain ⟨hname, hdeclared⟩ := extract_names u (shapeOf reg) sel reg s.encPlen
    refine ⟨hok.trans hmatch, hpresent.trans hinside, hrreg.trans hname, hrlen.trans hdeclared, ?_, ?_, ?_, ?_, ?_⟩
    · intro hreg
      rw [shapeOf_string hreg, received_extract_string hu (by omega)] at herr htag
      have hrx := received_payload (decodeCommand_received hu (by simp; omega) sel) (n := n) (by omega)
      exact ⟨herr, htag, by rw [hrx, ← hlen, List.take_left]⟩
    · rintro ⟨hreg, hmin⟩
      obtain ⟨tag, hshape⟩ := shapeOf_float_of_mem hreg
      rw [hshape, received_extract_float hu (by omega) hmin] at herr hvalue
      exact ⟨herr, hvalue.trans (payloadFloat_append (by omega) _)⟩
    · rintro ⟨hreg, hmin⟩
      have hshape : shapeOf reg = .triple := by rw [hreg]; rfl
      have hsel3 := toNat_lt_of_legal hsel
      rw [hshape, received_extract_triple hu (by omega) hmin hsel] at herr hvalue
      exact ⟨herr, hvalue.trans (payloadFloat_append (by omega) _)⟩
    · intro hshort
      have hshape : shapeOf reg ≠ .unknown ∧ n < (shapeOf reg).minPayload := by
        rcases hshort with ⟨hreg, hlt⟩ | ⟨hreg, hlt⟩
        · obtain ⟨tag, hshape⟩ := shapeOf_float_of_mem hreg
          rw [hshape]
          exact ⟨by simp, hlt⟩
        · rw [hreg]
          exact ⟨by decide, hlt⟩
      rw [received_extract_truncated hu hshape.1 (.inr hshape.2)] at herr htag
      exact ⟨herr, htag⟩
    · intro hreg
      rw [shapeOf_unknown hreg, extract_unknown] at herr htag
      exact ⟨herr, htag⟩
  · intro hgate
    rw [received_notAResponse hu (hgate.imp_right (Or.imp_right fun hn => by omega))] at herr
    exact herr

end Sys2Proof.Machine
end

section
/-!
SUPPORT. VERIFY, NOP and the reserved commands (42_verify R170-R178): the words they write, CHK() on a permuted payload, and CTRL as
the record of the command that ran last.
-/

namespace Sys2Proof.Machine

/-! ### Commands that report alone -/

theorem ctrlWord_zero (sel : BitVec 2) : ctrlWord 0#3 sel = sel.setWidth 32 <<< 4 := by simp [ctrlWord]

theorem statusWord_illegalCmd (op : BitVec 3) :
    statusWord .illegalCmd false false op = op.setWidth 32 <<< 8 ||| 3#32 := by
  simp [statusWord, ErrCode.code]

/-- Settles O16. -/
theorem nopClearsStatus : Obligations.NopClearsStatus := by
  intro sel s
  rw [← ctrlWord_zero]
  rfl

/-- Settles O17. -/
theorem reservedOpReportsIllegalCommand : Obligations.ReservedOpReportsIllegalCommand := by
  intro op sel s _
  rw [← statusWord_illegalCmd]
  rfl

/-! ### VERIFY -/

/-- VERIFY reports what CHK() answers, and writes CTRL, STATUS and CSUM alone (42_verify R170). -/
theorem exec_verify_of_check {s : State} {c : CheckResult} (hc : s.check = c) (sel : BitVec 2) :
    exec (.verify sel) s = .next { s with
      ctrl := ctrlWord 3#3 sel, csum := csumWord c.received c.computed, status := statusWord .ok c.ok c.present 3#3 } := by
  subst hc
  rfl

/-- STATUS after a VERIFY that found a checksum byte (10_state R23, 42_verify R170). -/
theorem statusWord_verify_present (p : Prop) [Decidable p] :
    statusWord .ok (decide p) true 3#3 = if p then 0x00000330#32 else 0x00000320#32 := by
  by_cases hp : p
  · rw [if_pos hp, decide_eq_true hp]
    rfl
  · rw [if_neg hp, decide_eq_false hp]
    rfl

/-- Settles O19, by whether the checksum byte lies inside the buffer. -/
theorem verifyComputesTheFrameChecksum : Obligations.VerifyComputesTheFrameChecksum := by
  intro sel s n dlen computed received ctrl
  constructor
  · intro hshort
    exact exec_verify_of_check (check_of_absent hshort) sel
  · rintro ⟨h4, hinside⟩
    rw [exec_verify_of_check (check_of_present h4 hinside) sel, statusWord_verify_present]
    rfl

/-! ### The order of the payload -/

/-- The sum of a payload's bytes does not depend on their order (42_verify R178). -/
theorem checksumOf_perm {p q : List Byte} (h : p.Perm q) (reg len : Byte) : checksumOf reg len p = checksumOf reg len q := by
  have hsum : byteSum p = byteSum q := (h.map BitVec.toNat).sum_eq
  rw [checksumOf, checksumOf, hsum]

/-- CHK() answers the same for a frame with its payload permuted (42_verify R178). -/
theorem check_congr_perm {s u : State} (hlen : u.rxLen = s.rxLen) (h2 : u.rx 2 = s.rx 2) (h3 : u.rx 3 = s.rx 3)
    (hperm : (u.rxBytes 4 (s.rx 3).toNat).Perm (s.rxBytes 4 (s.rx 3).toNat))
    (hsum : u.rx (4 + (s.rx 3).toNat) = s.rx (4 + (s.rx 3).toNat)) : u.check = s.check := by
  have hcount : u.rxCount = s.rxCount := congrArg BitVec.toNat hlen
  simp only [State.check, hcount, h2, h3, hsum, checksumOf_perm hperm]

/-- Settles O23: VERIFY reports CHK()'s answer, and ENCODE the sum of its payload. -/
theorem checksumIgnoresPayloadOrder : Obligations.ChecksumIgnoresPayloadOrder := by
  intro sel s u
  constructor
  · intro hlen h2 h3 hperm hsum
    exact ⟨_, _, exec_verify_of_check rfl sel, exec_verify_of_check (check_congr_perm hlen h2 h3 hperm hsum) sel, rfl, rfl⟩
  · intro hhdr hperm
    have hreg : u.encReg = s.encReg := congrArg (BitVec.extractLsb' 16 8) hhdr
    have hplen : u.encPlen = s.encPlen := congrArg (BitVec.extractLsb' 24 8) hhdr
    refine ⟨encodeCommand sel s, encodeCommand sel u, rfl, rfl, ?_⟩
    rw [encodeCommand_frame sel u, encodeCommand_frame sel s, State.encPayload, State.encPayload, hreg, hplen,
      checksumOf_perm hperm]

/-! ### CTRL after a command -/

theorem wordBytes_injective : Function.Injective wordBytes := by
  intro v w h
  simp only [wordBytes, List.cons.injEq, and_true] at h
  obtain ⟨h0, h1, h2, h3⟩ := h
  rw [← le32_wordByte v, ← le32_wordByte w, h0, h1, h2, h3]

/-- Every command reports under the OP that it stores in CTRL (10_state R23, R25). -/
theorem setCtrl_report_lastOp (s : State) (err : ErrCode) (ok present : Bool) (op : BitVec 3) (sel : BitVec 2) :
    ((s.setCtrl op sel).report err ok present op).lastOp = ((s.setCtrl op sel).report err ok present op).ctrlOp := by
  rw [State.report_lastOp, State.report_ctrlOp, State.setCtrl_ctrlOp]

/-- A command leaves its own command word in CTRL, ignored bits 0, and its OP in STATUS.LAST_OP (10_state R23, R25). -/
theorem exec_command_records {i : Instr} (hsrc : i.source = .ctrl) {s t : State} (h : exec i s = .next t) :
    wordBytes t.ctrl = encode i ∧ t.lastOp = t.ctrlOp := by
  cases i with
  | nop | encode | verify | decodeIllegalSel | reservedOp =>
    cases h
    exact ⟨rfl, setCtrl_report_lastOp _ _ _ _ _ _⟩
  | decodeV | decodeI | decodeP =>
    cases h
    rw [decodeCommand_eq (by decide)]
    exact ⟨rfl, setCtrl_report_lastOp _ _ _ _ _ _⟩
  | encFrame | qGet | sFloat | sByte | hConnect | hBaud | hDisconnect => cases hsrc
  | respSetv | respSeti | respTelem | respModel | respHwver | respFwver | respOther => cases hsrc

/-- The command that any word selects completes, and leaves `w & 0x37` in CTRL (42_verify R177). -/
theorem exec_decodeCommandWord (w : Word) (s : State) :
    ∃ t, exec (decodeCommandWord w) s = .next t ∧ t.ctrl = w &&& 0x00000037#32 ∧ t.lastOp = w.extractLsb' 0 3 ∧
      t.response = s.response ∧ t.hostQueue = s.hostQueue := by
  have hsrc := decodeCommandWord_source w
  obtain ⟨t, ht, -, -, -, -, hqueue, hresponse, -⟩ := commandsFollowTheWriteMatrix (decodeCommandWord w) s hsrc
  obtain ⟨hword, hop⟩ := exec_command_records hsrc ht
  have hctrl : t.ctrl = w &&& 0x00000037#32 := wordBytes_injective (hword.trans (commandWordsKeepOnlyOpAndSel w))
  refine ⟨t, ht, hctrl, ?_, hresponse, hqueue⟩
  rw [hop, State.ctrlOp, hctrl, ← commandWord_fields, commandWord_op]

/-- Settles O6: the step decodes the word, and the command it selects completes. -/
theorem ctrlWritePerformsItsCommand : Obligations.CtrlWritePerformsItsCommand := by
  refine ⟨fun s w rest hq => ?_, fun _ => rfl, rfl⟩
  have hstep := stepRunsTheDecodedInstruction s _ rest .ctrl (wordBytes w) [] _ hq rfl (decode_ctrl_wordBytes w)
  obtain ⟨t, ht, hctrl, hop, hresponse, hqueue⟩ :=
    exec_decodeCommandWord w { s with hostQueue := rest, response := .done }
  have hread := (controlRegistersReadAndWriteWhole t).1 0x000#12 (w &&& 0x00000037#32)
    (by rw [← hctrl]; exact List.mem_cons_self)
  exact ⟨hstep, t, hstep.trans ht, hctrl, hresponse, hqueue, hop, hread⟩

end Sys2Proof.Machine
end

section
/-!
SUPPORT. Exceptions (60_exceptions): an access that gets BusError performs no command (R206, R208), and no error of FCODEC keeps an
instruction from its end (R200, R207).
-/

namespace Sys2Proof.Machine

/-! ### BusError -/

/-- A word write to CTRL is allowed whatever its data (20_memory R53, 42_verify R177). -/
theorem not_disallowed_ctrlWrite (v : Word) : ¬ disallowed (.store .word 0x000#12 v) := by
  simp [disallowed, unmappedOffset, readOnlyOffset, AccessSize.bytes]

/-- Settles O52: an access that starts a command is a word write to CTRL, which gets no BusError, so the bus serves this one. -/
theorem busErrorPrecedesTheCommand : Obligations.BusErrorPrecedesTheCommand := by
  intro s a rest hq hbad
  have hserved : step s = hostAccess a { s with hostQueue := rest } :=
    otherAccessesAreServedByTheBus s a rest hq fun v hctrl => not_disallowed_ctrlWrite v (hctrl ▸ hbad)
  rw [hserved]
  exact disallowedAccessesAreBusErrors.1 a _ hbad

/-! ### Instructions run to the end -/

/-- `t` has the host's side of `s`, but for the bus response: its pending operations and its recorded faults are the host's own
(60_exceptions R206), the frames are the transport's, and a draw holds until the next reset (10_state R42). -/
def hostSideKept (s t : State) : Prop :=
  t.hostQueue = s.hostQueue ∧ t.faultLog = s.faultLog ∧ t.wire = s.wire ∧ t.drawEpoch = s.drawEpoch ∧
    t.hostReaction = s.hostReaction

/-- A command row is one access, so nothing of it is left, and its row of the write matrix names none of the host's fields
(10_state R41). -/
theorem command_completes {i : Instr} (hsrc : i.source = .ctrl) (s : State) : ∃ t, completesIn 0 i s t ∧ hostSideKept s t := by
  obtain ⟨t, ht, -, -, -, hepoch, hqueue, -, hreaction, hfaults, hwire, -⟩ := commandsFollowTheWriteMatrix i s hsrc
  exact ⟨t, ⟨t, ht, congrArg List.length hqueue, rfl⟩, hqueue, hfaults, hwire, hepoch, hreaction⟩

theorem onlyFrameBuilt_hostSideKept {n : Nat} {s t : State} (h : onlyFrameBuilt n s t) : hostSideKept s t := by
  rw [h.1]
  exact ⟨rfl, rfl, rfl, rfl, rfl⟩

theorem decodeCommand_hostSideKept (sel : BitVec 2) (s : State) : hostSideKept s (decodeCommand sel s) := by
  rw [decodeCommand_frame]
  exact ⟨rfl, rfl, rfl, rfl, rfl⟩

/-- The CTRL write of a frame row is the last of its accesses, so as many are left after the first as stand before it. -/
theorem accessesLeft_frame {i : Instr} (hsrc : i.source = .frame) : accessesLeft i = (frameAccesses i).length := by
  simp [accessesLeft, expansion_eq hsrc]

/-- A well-formed frame row is its accesses: no payload of it is too long (40_encode R103). -/
theorem exec_wellFormed_frame {i : Instr} (hw : i.wellFormed = true) (hsrc : i.source = .frame) (s : State) :
    exec i s = issueAccesses (frameAccesses i ++ [.store .word 0x000#12 (frameCommand i s.ctrlSel)]) s :=
  (exec_frame hsrc s).resolve_left fun hill => absurd hill.1 (by simp [hw])

/-- A row that the host builds completes with the host's side kept (40_encode R110). -/
theorem helper_completes {i : Instr} (hw : i.wellFormed = true) (hsrc : i.source = .frame) {s : State}
    {stores : List Access} {dir cmd reg : Byte} {payload : List Byte} (hstores : storesPayload stores payload)
    (hlen : payload.length ≤ 255)
    (hframe : frameAccesses i = stores ++ [.store .word 0x008#12 (le32 dir cmd reg (BitVec.ofNat 8 payload.length))])
    (hcommand : frameCommand i s.ctrlSel = 0x1#32) : ∃ t, completesIn (accessesLeft i) i s t ∧ hostSideKept s t := by
  have hexec : exec i s = buildFrame stores (le32 dir cmd reg (BitVec.ofNat 8 payload.length)) s := by
    rw [exec_wellFormed_frame hw hsrc, hframe, hcommand, List.append_assoc]
    rfl
  have hleft : accessesLeft i = stores.length + 1 := by rw [accessesLeft_frame hsrc, hframe, List.length_append]; rfl
  obtain ⟨t, hcompletes, -, -, -, honly⟩ := buildFrame_builds hstores hlen hexec
  exact ⟨t, hleft ▸ hcompletes, onlyFrameBuilt_hostSideKept honly⟩

/-- A row that the decoder recognises completes with the host's side kept, whatever its DECODE reports, under the reserved
selector too (41_decode R130, R151). -/
theorem response_completes {i : Instr} (hw : i.wellFormed = true) (hsrc : i.source = .frame) {s : State} {reg len : Byte}
    {body : List Byte} (hfits : bodyFits body = true)
    (hframe : frameAccesses i = receiveAccesses ([0xF0#8, 0xA1#8, reg, len] ++ body))
    (hcommand : frameCommand i s.ctrlSel = commandWord 2#3 s.ctrlSel) :
    ∃ t, completesIn (accessesLeft i) i s t ∧ hostSideKept s t := by
  have hexec : exec i s = receiveAndDecode ([0xF0#8, 0xA1#8, reg, len] ++ body) s := by
    rw [exec_wellFormed_frame hw hsrc, hframe, hcommand]
    rfl
  have hbody : body.length ≤ 256 := by simpa [bodyFits, Config.maxFrame] using hfits
  have hleft : accessesLeft i = body.length + 5 := by rw [accessesLeft_frame hsrc, hframe, receiveAccesses_length]; rfl
  have hkept : hostSideKept s (decodeCommand s.ctrlSel (s.afterReceive ([0xF0#8, 0xA1#8, reg, len] ++ body))) :=
    decodeCommand_hostSideKept _ (s.afterReceive _)
  exact ⟨_, hleft ▸ receiveAndDecode_completesIn hexec hbody, hkept⟩

/-- Settles O59: a command row by the write matrix, a row that the host builds by what it builds, a row that the decoder
recognises by its DECODE. -/
theorem everyWellFormedInstructionCompletes : Obligations.EveryWellFormedInstructionCompletes := by
  intro i s hw
  cases i with
  | nop | encode | decodeV | decodeI | decodeP | decodeIllegalSel | verify | reservedOp => exact command_completes rfl s
  | encFrame dir cmd reg payload =>
    have hlen : payload.length ≤ 255 := (encFrame_wellFormed hw).1
    exact helper_completes hw rfl (byteStores_storesPayload hlen) hlen rfl rfl
  | qGet | hDisconnect =>
    exact helper_completes hw rfl (byteStores_storesPayload (payload := []) (by simp)) (by simp) rfl rfl
  | sByte _ value | hConnect _ value | hBaud _ value =>
    exact helper_completes hw rfl (byteStores_storesPayload (payload := [value]) (by simp)) (by simp) rfl rfl
  | sFloat reg bits =>
    exact helper_completes hw rfl (wordStore_storesPayload bits) (by simp [wordBytes]) rfl rfl
  | respSetv | respSeti | respTelem | respModel | respHwver | respFwver => exact response_completes hw rfl hw rfl rfl
  | respOther => exact response_completes hw rfl (Bool.and_eq_true_iff.1 hw).2 rfl rfl

end Sys2Proof.Machine
end

section
/-!
SUPPORT. Reset and hazards (70_reset): nothing is received right after reset (R231), and the host operations that present no
instruction, namely WAIT (R236) and the two that a model must refuse (R230, 60_exceptions R215).
-/

namespace Sys2Proof.Machine

/-! ### Right after reset -/

/-- RX_LEN is 0 after reset (10_state R40): no header byte and no checksum byte was received. -/
theorem resetFcodec_rxLen_lt (s : State) : s.resetFcodec.rxLen.toNat < 4 := by simp

/-- STATUS after a DECODE with a legal selector (41_decode R130). -/
theorem decodeCommand_status {sel : BitVec 2} (hsel : sel ≠ 3#2) (s : State) :
    (decodeCommand sel s).status = statusWord (s.decodeResult sel).err s.check.ok s.check.present 2#3 := by
  rw [decodeCommand_eq hsel]
  rfl

/-- Settles O15: an empty receive buffer fails the response gate and holds no checksum byte. -/
theorem afterResetNothingIsReceived : Obligations.AfterResetNothingIsReceived := by
  intro s i sel hrow
  have hempty := resetFcodec_rxLen_lt s
  have hcheck := check_of_absent (.inl hempty)
  have hresult : s.resetFcodec.decodeResult sel = noValue .notAResponse .none 0#8 0#8 :=
    decodeResult_of_not_gate (fun ⟨hlong, _⟩ => by omega) sel
  obtain ⟨hsel, hexec⟩ := exec_decodeRow hrow
  have hstatus : (decodeCommand sel s.resetFcodec).status = 0x00000201#32 := by
    rw [decodeCommand_status hsel, hresult, hcheck]
    rfl
  exact ⟨⟨_, hexec _, hstatus, decodeCommand_outcome hsel hresult⟩,
    (verifyComputesTheFrameChecksum sel _).1 (.inl hempty)⟩

/-! ### Idle steps and refused operations -/

/-- A step on an operation that presents no instruction serves that operation (10_state R43). -/
theorem step_serveHostOp {s : State} {op : HostOp} {rest : List HostOp} (hq : s.hostQueue = op :: rest)
    (hf : fetchBytes op = none) : step s = serveHostOp op (s.dequeue rest) := by
  simp only [step, hq, hf]

/-- Settles O8. -/
theorem nothingRunsUntilTheHostActs : Obligations.NothingRunsUntilTheHostActs := by
  intro s
  constructor
  · intro hidle
    simp only [step, hidle]
  · intro rest hwait
    exact step_serveHostOp hwait rfl

/-- Settles O14. -/
theorem concurrentResetAndSecondAgentAreRefused : Obligations.ConcurrentResetAndSecondAgentAreRefused :=
  fun _ _ _ => ⟨fun hreset => step_serveHostOp hreset rfl, fun hagent => step_serveHostOp hagent rfl⟩

end Sys2Proof.Machine
end
